-- ==== Sys2Proof/Word.lean ====
section
/-!
DEFINITION. The byte, the smallest unit of every memory space, table and bus transaction (spec/00_scope.md R8).
-/
namespace Sys2Proof

/-- A byte is 8 bits, an unsigned integer 0 to 255 (R8). -/
abbrev Byte := BitVec 8

/-- A 2-bit voltage code of a phase row (spec/30_encoding.md R93). -/
abbrev Code := BitVec 2

/-- `zeros(n)`: the sequence of n bytes 0x00 (R8). -/
def zeros (n : Nat) : List Byte := List.replicate n 0

end Sys2Proof
end

