-- ==== Sys2Proof/Config.lean ====
section
/-!
DEFINITION. What an implementation of the block fixes (spec/00_scope.md R7) and the free values the spec leaves open.
A parameter is a field of `Config`, plain data that the state carries and no step changes (log 1); a free value is an
opaque constant, of which nothing can be proved (spec/93_implementation_defined.md part 1, treatment "any value").
-/
namespace Sys2Proof

/-- `OPC`, the map from the thirteen bus command names to opcode bytes (spec/30_encoding.md R111). -/
structure Opcodes where
  panelConfig  : Byte
  powerOff     : Byte
  powerOn      : Byte
  dataPrevious : Byte
  dataStop     : Byte
  refresh      : Byte
  dataCurrent  : Byte
  lutVcom      : Byte
  lutWw        : Byte
  lutBw        : Byte
  lutWb        : Byte
  lutBb        : Byte
  partialOut   : Byte
deriving DecidableEq, Repr

/-- `CODE_BLACK`, `CODE_WHITE`: two distinct values out of {1, 2}, so one of two assignments (spec/30_encoding.md R93). -/
inductive Polarity where
  /-- drive-high (1) moves a pixel to black, drive-low (2) to white: the reference. -/
  | blackHigh
  /-- drive-low (2) moves a pixel to black, drive-high (1) to white. -/
  | blackLow
deriving DecidableEq, Repr

/-- `CODE_BLACK` (R93). -/
def Polarity.black : Polarity → Code
  | .blackHigh => 1
  | .blackLow => 2

/-- `CODE_WHITE` (R93). -/
def Polarity.white : Polarity → Code
  | .blackHigh => 2
  | .blackLow => 1

/-- One supported resolution and its constant `PSR_RES` (spec/30_encoding.md R112). -/
structure Resolution where
  width  : Nat
  height : Nat
  bits   : Byte
deriving DecidableEq, Repr

/-- `PSR_ENC`, the constants of the panel configuration byte beside `PSR_RES` (R112). -/
structure PsrEnc where
  base        : Byte
  srcInternal : Byte
  srcProg     : Byte
  mx0         : Byte
  mx1         : Byte
  my0         : Byte
  my1         : Byte
deriving DecidableEq, Repr

/-- The parameters of R7 that an implementation sets. Speeds are in units of 1/2^F. -/
structure Config where
  /-- `SPEED_FRAC_BITS` (F). -/
  fracBits    : Nat
  /-- `PP_THRESHOLD`. -/
  ppThreshold : Nat
  /-- `PP_REPEAT`: the speeds at which the ping-pong phase is repeated twice; 1 at every other speed. -/
  ppTwice     : List Nat
  polarity    : Polarity
  /-- `FULL_REFRESH_SPEED`. -/
  fullSpeed   : Nat
  /-- `FRAMES_TO_BLACK`. -/
  framesToBlack : Nat
  /-- `SUPPORTED_RES`, with the constant of each pair. -/
  supported   : List Resolution
  psr         : PsrEnc
  opc         : Opcodes
  /-- `INIT_REGS`: opcode byte and data bytes of each further register write of INIT. -/
  initRegs    : List (Byte × List Byte)
  /-- `BUSY_TIMEOUT`; `none` is the unbounded poll. -/
  busyTimeout : Option Nat
deriving DecidableEq, Repr

/-- `FAST_THRESHOLD`, fixed at speed 4 (R7). -/
def Config.fastThreshold (c : Config) : Nat := 4 * 2 ^ c.fracBits

/-- `SETTLE_REPEAT` (R7). -/
def Config.settleRepeat : Nat := 1

/-- `G_MAX` (R7). -/
def Config.gMax : Nat := 32

/-- The opcodes commonly used for a UC8151-class chip: PRESUMED, spec/93_implementation_defined.md G1 (log 2). -/
def Opcodes.reference : Opcodes :=
  { panelConfig := 0x00, powerOff := 0x02, powerOn := 0x04, dataPrevious := 0x10, dataStop := 0x11, refresh := 0x12,
    dataCurrent := 0x13, lutVcom := 0x20, lutWw := 0x21, lutBw := 0x22, lutWb := 0x23, lutBb := 0x24,
    partialOut := 0x92 }

/-- The reference values of R7; resolutions, panel byte and polarity are PRESUMED from spec/93 G2 to G4 (log 2). -/
def Config.reference : Config :=
  { fracBits := 0, ppThreshold := 4, ppTwice := [], polarity := .blackHigh, fullSpeed := 2, framesToBlack := 32,
    supported := [⟨96, 230, 0x00⟩, ⟨96, 252, 0x40⟩, ⟨128, 296, 0x80⟩, ⟨160, 296, 0xC0⟩],
    psr := { base := 0x13, srcInternal := 0x00, srcProg := 0x20, mx0 := 0x00, mx1 := 0x04, my0 := 0x00, my1 := 0x08 },
    opc := Opcodes.reference, initRegs := [], busyTimeout := none }

/-! ### Free values -/

/-- The level of the busy line at which the block samples it in the n-th step, where no input has fixed it, true for busy:
"a free draw" (spec/10_state.md R44; log 3). -/
opaque Config.busyDraw : Nat → Bool

/-- The level of the busy line that the host polls before the n-th step, where no input has fixed it, true for busy: the
level is the chip's at every moment, so it says nothing of the samples of the steps around it (R44 (a); log 3). -/
opaque Config.pollDraw : Nat → Bool

/-- Whether, while a refresh runs, the n-th step belongs to the chip's engine: the pace of a refresh is the chip's
(R44; log 4). -/
opaque Config.turnDraw : Nat → Bool

/-- Byte i of the n-th content the spec leaves unspecified (spec/93 U7, U8, U9; log 13). -/
opaque Config.freeByte : Nat → Nat → Byte

/-- The n-th one-bit content the spec leaves unspecified (spec/93 U7, U9, U12; log 13). -/
opaque Config.freeBit : Nat → Bool

/-- Byte i of the chip's built-in table number k: the contents of the internal ROM are not given (R41; log 16). -/
opaque Config.romByte : Nat → Nat → Byte

end Sys2Proof
end

