-- ==== Sys2Proof/Syntax.lean ====
section
/-!
DEFINITION. The instructions, one constructor per row of spec/opcode_table.json, at the three layers of
spec/00_scope.md R2: phase rows, host operations, bus commands.
-/
namespace Sys2Proof

/-- The five waveform tables (spec/30_encoding.md R90), and the line each drives during a refresh: the common line
(VCOM) or the pixels of a transition class (spec/10_state.md R45). -/
inductive Lane where
  | vcom
  | ww
  | wb
  | bb
  | bw
deriving DecidableEq, Repr

/-- The bus commands of spec/30_encoding.md R109: thirteen names and `CMD_RAW(o)`. -/
inductive Cmd where
  | panelConfig
  | powerOff
  | powerOn
  | dataPrevious
  | dataStop
  | refresh
  | dataCurrent
  | lutVcom
  | lutWw
  | lutBw
  | lutWb
  | lutBb
  | partialOut
  | raw (o : Byte)
deriving DecidableEq, Repr

/-- Where an instruction is read: a code written to `CMD` (R104), a bus transaction (R108), or a row of the table of a
lane (R91). The three layers share byte values, so a word has a meaning only at its port (log 5). -/
inductive Port where
  | host
  /-- The bus towards a panel whose pixel buffers have `nb` = WIDTH*HEIGHT/8 bytes (R109, R110). -/
  | bus (nb : Nat)
  | row (l : Lane)
deriving DecidableEq, Repr

/-- The instructions. -/
inductive Instr where
  /-- PHASE_ROW: a row of any shape no other row constructor has at its port (R91). -/
  | phaseRow (c0 c1 c2 c3 : Code) (d0 d1 d2 d3 rep : Byte)
  /-- UNUSED_ROW: REP = 0, the other five bytes any (R95). -/
  | unusedRow (c0 c1 c2 c3 : Code) (d0 d1 d2 d3 : Byte)
  /-- SETTLE_ROW_BW: the settle phase in the BW table (spec/40_lut_synthesizer.md R135). -/
  | settleRowBw (p rep : Byte)
  /-- PINGPONG_ROW_BW: the ping-pong phase in the BW table (R136). -/
  | pingpongRowBw (q rep : Byte)
  /-- FINAL_ROW_BW: the settle-to-target phase in the BW table (R137). -/
  | finalRowBw (p rep : Byte)
  /-- GREY_ROW: the used row of a greyscale pass table (spec/42_greyscale_multiplexer.md R227). -/
  | greyRow (n : Byte)
  /-- INIT, code 0x01 (spec/41_refresh_sequencer.md R175). -/
  | init
  /-- SET_SPEED, code 0x02 (R176). -/
  | setSpeed
  /-- UPDATE, code 0x03 (R178). -/
  | update
  /-- GREY_RENDER, code 0x04 (spec/42_greyscale_multiplexer.md R231). -/
  | greyRender
  /-- FADE_OUT, code 0x05 (R192). -/
  | fadeOut
  /-- WAIT_OFF, code 0x06 (R188). -/
  | waitOff
  /-- IS_BUSY, code 0x07 (R189). -/
  | isBusy
  /-- HOST_RESERVED: a code other than 0x01 to 0x07 (spec/30_encoding.md R107). -/
  | hostReserved (code : Byte)
  /-- CMD_PANEL_CONFIG with its data byte (R112). -/
  | cmdPanelConfig (psr : Byte)
  | cmdPowerOff
  | cmdPowerOn
  /-- CMD_DATA_PREVIOUS with its data bytes (R109). -/
  | cmdDataPrevious (data : List Byte)
  | cmdDataStop
  | cmdRefresh
  /-- CMD_DATA_CURRENT with its data bytes (R109). -/
  | cmdDataCurrent (data : List Byte)
  /-- CMD_LUT_VCOM with the 44 bytes of the table (R109). -/
  | cmdLutVcom (data : List Byte)
  /-- CMD_LUT_WW with the 42 bytes of the table. -/
  | cmdLutWw (data : List Byte)
  /-- CMD_LUT_BW with the 42 bytes of the table. -/
  | cmdLutBw (data : List Byte)
  /-- CMD_LUT_WB with the 42 bytes of the table. -/
  | cmdLutWb (data : List Byte)
  /-- CMD_LUT_BB with the 42 bytes of the table. -/
  | cmdLutBb (data : List Byte)
  | cmdPartialOut
  /-- CMD_RAW(o) with any data bytes (R109). -/
  | cmdRaw (o : Byte) (data : List Byte)
deriving DecidableEq, Repr

end Sys2Proof
end

