-- ==== Sys2Proof/Decode.lean ====
section
/-!
DEFINITION. The decoder, total on any bytes at any port and rejecting by name, and the encoder
(spec/30_encoding.md parts A, B, C). The port says which layer's table the bytes are read in (log 5).
-/
namespace Sys2Proof

/-! ### Phase rows (part A) -/

/-- The pattern byte `(C0 << 6) | (C1 << 4) | (C2 << 2) | C3` (R92). -/
def patByte (c0 c1 c2 c3 : Code) : Byte := c0 ++ c1 ++ c2 ++ c3

/-- `Ck = pat[7-2k : 6-2k]` (R98). -/
def patCode (pat : Byte) (k : Nat) : Code := pat.extractLsb' (6 - 2 * k) 2

/-- The six bytes of a row: pattern, four durations, repeat (R91, R68). -/
def rowBytes (c0 c1 c2 c3 : Code) (d0 d1 d2 d3 rep : Byte) : List Byte :=
  [patByte c0 c1 c2 c3, d0, d1, d2, d3, rep]

/-- Why bytes are no instruction at their port. -/
inductive DecodeError where
  /-- A host code is one byte (R104). -/
  | hostLength
  /-- A bus transaction has at least its opcode byte (R108). -/
  | noOpcode
  /-- A phase row is six bytes (R90). -/
  | rowLength
deriving DecidableEq, Repr

/-- The row shapes of the BW table (R135 to R137), of the tables of a greyscale pass (R227), and the general row.
Lane VCOM has the null pattern in every row the block builds (R140, R227), so no shape of its own. -/
def decodeRow (pol : Polarity) (l : Lane) (bytes : List Byte) : Except DecodeError Instr :=
  match bytes with
  | [pat, d0, d1, d2, d3, rep] =>
    let c0 := patCode pat 0
    let c1 := patCode pat 1
    let c2 := patCode pat 2
    let c3 := patCode pat 3
    if rep = 0 then .ok (.unusedRow c0 c1 c2 c3 d0 d1 d2 d3)
    else match l with
      | .bw =>
        if pat = patByte pol.black 0 0 0 ∧ d1 = 0 ∧ d2 = 0 ∧ d3 = 0 then .ok (.settleRowBw d0 rep)
        else if pat = patByte pol.black pol.white 0 0 ∧ d1 = d0 ∧ d2 = 0 ∧ d3 = 0 then .ok (.pingpongRowBw d0 rep)
        else if pat = patByte pol.white 0 0 0 ∧ d1 = 0 ∧ d2 = 0 ∧ d3 = 0 then .ok (.finalRowBw d0 rep)
        else .ok (.phaseRow c0 c1 c2 c3 d0 d1 d2 d3 rep)
      | .vcom => .ok (.phaseRow c0 c1 c2 c3 d0 d1 d2 d3 rep)
      | _ =>
        if pat = patByte pol.black 0 0 0 ∧ d1 = 0 ∧ d2 = 0 ∧ d3 = 0 ∧ rep = 1 then .ok (.greyRow d0)
        else .ok (.phaseRow c0 c1 c2 c3 d0 d1 d2 d3 rep)
  | _ => .error .rowLength

/-! ### Host operations (part B) -/

/-- The host operation codes (R105) and the reserved codes (R107). -/
def hostOfCode (code : Byte) : Instr :=
  if code = 0x01 then .init
  else if code = 0x02 then .setSpeed
  else if code = 0x03 then .update
  else if code = 0x04 then .greyRender
  else if code = 0x05 then .fadeOut
  else if code = 0x06 then .waitOff
  else if code = 0x07 then .isBusy
  else .hostReserved code

/-- A code written to `CMD`: one byte, matched on all its bits (R104). -/
def decodeHost (bytes : List Byte) : Except DecodeError Instr :=
  match bytes with
  | [code] => .ok (hostOfCode code)
  | _ => .error .hostLength

/-! ### Bus commands (part C) -/

/-- `OPC(name)`; a raw command is its own opcode (R109, R111). -/
def Opcodes.byteOf (o : Opcodes) : Cmd → Byte
  | .panelConfig => o.panelConfig
  | .powerOff => o.powerOff
  | .powerOn => o.powerOn
  | .dataPrevious => o.dataPrevious
  | .dataStop => o.dataStop
  | .refresh => o.refresh
  | .dataCurrent => o.dataCurrent
  | .lutVcom => o.lutVcom
  | .lutWw => o.lutWw
  | .lutBw => o.lutBw
  | .lutWb => o.lutWb
  | .lutBb => o.lutBb
  | .partialOut => o.partialOut
  | .raw b => b

/-- The thirteen names (R109). -/
def Cmd.named : List Cmd :=
  [.panelConfig, .powerOff, .powerOn, .dataPrevious, .dataStop, .refresh, .dataCurrent, .lutVcom, .lutWw, .lutBw,
   .lutWb, .lutBb, .partialOut]

/-- The name an opcode byte has, if any. -/
def Opcodes.find (o : Opcodes) (b : Byte) : Option Cmd := Cmd.named.find? fun c => o.byteOf c == b

/-- How many data bytes a command has towards a panel with `nb` bytes to a pixel buffer; any number for CMD_RAW (R109,
R110). -/
def Cmd.dataLength (nb : Nat) : Cmd → Option Nat
  | .panelConfig => some 1
  | .powerOff => some 0
  | .powerOn => some 0
  | .dataPrevious => some nb
  | .dataStop => some 0
  | .refresh => some 0
  | .dataCurrent => some nb
  | .lutVcom => some 44
  | .lutWw => some 42
  | .lutBw => some 42
  | .lutWb => some 42
  | .lutBb => some 42
  | .partialOut => some 0
  | .raw _ => none

/-- `data` has the length the command is always sent with (R110). -/
def Cmd.fits (nb : Nat) (c : Cmd) (data : List Byte) : Bool :=
  match c.dataLength nb with
  | some n => data.length == n
  | none => true

/-- The instruction of a named command with data of the right length. -/
def Cmd.instr (c : Cmd) (data : List Byte) : Instr :=
  match c with
  | .panelConfig => .cmdPanelConfig (data.headD 0)
  | .powerOff => .cmdPowerOff
  | .powerOn => .cmdPowerOn
  | .dataPrevious => .cmdDataPrevious data
  | .dataStop => .cmdDataStop
  | .refresh => .cmdRefresh
  | .dataCurrent => .cmdDataCurrent data
  | .lutVcom => .cmdLutVcom data
  | .lutWw => .cmdLutWw data
  | .lutBw => .cmdLutBw data
  | .lutWb => .cmdLutWb data
  | .lutBb => .cmdLutBb data
  | .partialOut => .cmdPartialOut
  | .raw o => .cmdRaw o data

/-- A transaction: opcode byte, then data bytes (R108). A byte that is no named opcode, or a length no named command is
sent with (R110), is a raw command. A named opcode with data of its length is that named command wherever the bytes come
from, an entry of `INIT_REGS` included, which R175 writes as CMD_RAW (DESIGN CHOICE, log 15). -/
def decodeBus (opc : Opcodes) (nb : Nat) (bytes : List Byte) : Except DecodeError Instr :=
  match bytes with
  | [] => .error .noOpcode
  | o :: data =>
    match opc.find o with
    | some c => if c.fits nb data then .ok (c.instr data) else .ok (.cmdRaw o data)
    | none => .ok (.cmdRaw o data)

/-- The decoder: total, an instruction or a named rejection. -/
def decode (c : Config) (p : Port) (bytes : List Byte) : Except DecodeError Instr :=
  match p with
  | .host => decodeHost bytes
  | .bus nb => decodeBus c.opc nb bytes
  | .row l => decodeRow c.polarity l bytes

/-! ### The fields of the panel configuration byte (R112) -/

/-- Every bit of the panel byte that a constant other than `PSR_SRC` may set (R112). -/
def Config.psrOtherBits (c : Config) : Byte :=
  c.psr.base ||| c.psr.mx0 ||| c.psr.mx1 ||| c.psr.my0 ||| c.psr.my1 |||
    c.supported.foldl (fun b r => b ||| r.bits) 0

/-- The bits by which the panel byte determines the LUT source: set in one `PSR_SRC` constant only and in no other
constant (R112). -/
def Config.psrSrcBits (c : Config) : Byte := (c.psr.srcInternal ^^^ c.psr.srcProg) &&& ~~~c.psrOtherBits

/-! ### The encoder -/

/-- The bytes of an instruction, first byte first. -/
def encode (c : Config) (i : Instr) : List Byte :=
  match i with
  | .phaseRow c0 c1 c2 c3 d0 d1 d2 d3 rep => rowBytes c0 c1 c2 c3 d0 d1 d2 d3 rep
  | .unusedRow c0 c1 c2 c3 d0 d1 d2 d3 => rowBytes c0 c1 c2 c3 d0 d1 d2 d3 0
  | .settleRowBw p rep => rowBytes c.polarity.black 0 0 0 p 0 0 0 rep
  | .pingpongRowBw q rep => rowBytes c.polarity.black c.polarity.white 0 0 q q 0 0 rep
  | .finalRowBw p rep => rowBytes c.polarity.white 0 0 0 p 0 0 0 rep
  | .greyRow n => rowBytes c.polarity.black 0 0 0 n 0 0 0 1
  | .init => [0x01]
  | .setSpeed => [0x02]
  | .update => [0x03]
  | .greyRender => [0x04]
  | .fadeOut => [0x05]
  | .waitOff => [0x06]
  | .isBusy => [0x07]
  | .hostReserved code => [code]
  | .cmdPanelConfig psr => [c.opc.panelConfig, psr]
  | .cmdPowerOff => [c.opc.powerOff]
  | .cmdPowerOn => [c.opc.powerOn]
  | .cmdDataPrevious data => c.opc.dataPrevious :: data
  | .cmdDataStop => [c.opc.dataStop]
  | .cmdRefresh => [c.opc.refresh]
  | .cmdDataCurrent data => c.opc.dataCurrent :: data
  | .cmdLutVcom data => c.opc.lutVcom :: data
  | .cmdLutWw data => c.opc.lutWw :: data
  | .cmdLutBw data => c.opc.lutBw :: data
  | .cmdLutWb data => c.opc.lutWb :: data
  | .cmdLutBb data => c.opc.lutBb :: data
  | .cmdPartialOut => [c.opc.partialOut]
  | .cmdRaw o data => o :: data

/-! ### Words as spec/opcode_table.json numbers them -/

/-- The six bytes of a 48-bit row word, byte 0 in bits 47:40 (the table writes a row most significant bit first). -/
def rowOfWord (w : Nat) : List Byte :=
  [BitVec.ofNat 8 (w / 2 ^ 40), BitVec.ofNat 8 (w / 2 ^ 32), BitVec.ofNat 8 (w / 2 ^ 24), BitVec.ofNat 8 (w / 2 ^ 16),
   BitVec.ofNat 8 (w / 2 ^ 8), BitVec.ofNat 8 w]

/-- The port at which a table word is read, towards a panel with `nb` bytes to a pixel buffer. More than 8 bits is a phase
row: of the WW table when it is a GREY_ROW word, else of the BW table. Eight bits are a host code when 0x01 to 0x07, else
the bus command with that reference opcode, else a reserved host code. 0x00, 0x02 and 0x04 name two rows each in the table
(log 5). -/
def portOfWord (nb nbits w : Nat) : Port :=
  if 8 < nbits then
    (if rowOfWord w = rowBytes Polarity.blackHigh.black 0 0 0 (BitVec.ofNat 8 (w / 2 ^ 32)) 0 0 0 1 then .row .ww
     else .row .bw)
  else if 1 ≤ w % 256 ∧ w % 256 ≤ 7 then .host
  else match Opcodes.reference.find (BitVec.ofNat 8 w) with
    | some _ => .bus nb
    | none => .host

/-- The bytes of a table word at its port: a row's six bytes, a host code, or an opcode byte followed by data bytes of
zeros as many as the command has. -/
def bytesOfWord (nb nbits w : Nat) : List Byte :=
  match portOfWord nb nbits w with
  | .row _ => rowOfWord w
  | .host => [BitVec.ofNat 8 w]
  | .bus _ =>
    match Opcodes.reference.find (BitVec.ofNat 8 w) with
    | some c => BitVec.ofNat 8 w :: zeros ((c.dataLength nb).getD 0)
    | none => [BitVec.ofNat 8 w]

/-- The instruction the decoder reads from a table word, under the reference parameters and the geometry of the reset
state, whose buffers have no bytes (log 5, log 7). -/
def decodeTableWord (nbits w : Nat) : Option Instr :=
  (decode Config.reference (portOfWord 0 nbits w) (bytesOfWord 0 nbits w)).toOption

end Sys2Proof
end

