-- ==== Sys2Proof/Machine/State.lean ====
section
/-!
DEFINITION. The machine's state as plain data: the block's registers (spec/10_state.md sections 1 to 5), its memory
spaces (spec/20_memory.md R60), its pins (R37), the chip's shadow state (section 8), the observation (R47), and the
model's own fields for the environment; and its value right after reset (spec/70_reset_and_hazards.md R300).
-/
namespace Sys2Proof.Machine

/-- Why a step stops the machine. -/
inductive Fault where
  /-- Raised by `Sys2Proof.Machine.hostFill`: the host writes a byte that its memory space does not have
  (spec/20_memory.md R60). Safe: the hardware has no such byte. -/
  | outsideSpace
deriving DecidableEq, Repr

/-- Why a step has no meaning. -/
inductive Refusal where
  /-- Raised by `Sys2Proof.Machine.exec` for an instruction that has no meaning yet. Safe. -/
  | notModelled (mnemonic : String)
  /-- Raised by `Sys2Proof.Machine.step` for bytes the decoder rejects; the fetches of the model never give such
  bytes. Safe. -/
  | undecodable
deriving DecidableEq, Repr

/-- The states of the refresh state machine, in the source's order (R28). -/
inductive Seq where
  | idle
  | powering
  | transferring
  | refreshing
  | poweredOn
  | poweringOff
deriving DecidableEq, Repr

/-- The host operations (R29: `OP`). -/
inductive HostOp where
  | init
  | setSpeed
  | update
  | greyRender
  | fadeOut
  | waitOff
  | isBusy
deriving DecidableEq, Repr

/-- The error classes (spec/60_exceptions.md R260, R265). -/
inductive ErrClass where
  | none
  | configuration
  | timeout
  | data
  | unspecified
deriving DecidableEq, Repr

/-- The causes (R261, R265). -/
inductive Cause where
  | none
  | resolution
  | speed
  | rowIndex
  | reservedOp
  | greyLevels
  | duration
  | fadeOut
  | beforeInit
  | greyAtSpeedZero
deriving DecidableEq, Repr

/-- The six memory spaces (spec/20_memory.md R60). -/
inductive Space where
  | fb0
  | fb1
  | lum
  | lvl
  | maskOld
  | maskNew
deriving DecidableEq, Repr

/-- The memory spaces the host owns (R60). -/
inductive HostSpace where
  | fb0
  | fb1
  | lum
deriving DecidableEq, Repr

/-- Where the data bytes of a `send` come from, read when the `send` is performed. -/
inductive Payload where
  /-- These bytes (none for a command without data). -/
  | bytes (data : List Byte)
  /-- The panel configuration byte (spec/41_refresh_sequencer.md R177). -/
  | psr
  /-- A whole table buffer (spec/40_lut_synthesizer.md R143). -/
  | table (l : Lane)
  /-- A whole pixel buffer (R182, spec/42 R228). -/
  | buffer (sp : Space)
deriving DecidableEq, Repr

/-- The actions scripts are made of (R29). -/
inductive Action where
  /-- `SEQ <- q` (R187). -/
  | setSeq (q : Seq)
  /-- `send(c, D)` (R170). -/
  | send (c : Cmd) (d : Payload)
  /-- `wait_ready()` (R172). -/
  | waitReady
  /-- `reset_pin(level); delay_ms(10)` (R174). -/
  | resetPin (high : Bool)
  /-- `SYNTHESIZE(SPEED, FR)` into the table buffers (R177, R183, R230). -/
  | synth
  /-- `SYNTHESIZE(FULL_REFRESH_SPEED, false)` into the table buffers (R181). -/
  | synthFull
  /-- The normalisation of a greyscale render (R231 part 1). -/
  | normalise
  /-- The head of the pass loop at base level g (R231 part 2). -/
  | greyLoop (g : Nat)
  /-- `GREY_TABLES(N1, N2, N3)` into the table buffers (R227). -/
  | greyTables
  /-- `UPDATE_COUNT <- 0`. -/
  | clearCount
  /-- `UPDATE_COUNT <- UPDATE_COUNT + 1` (R184). -/
  | bumpCount
  /-- `INITED <- 1`. -/
  | setInited
  /-- `return v`. -/
  | ret (v : Bool)
deriving DecidableEq, Repr

/-- What the host does next (spec/95_test_vectors.md section 3: a program is a list of register writes). -/
inductive HostAct where
  /-- A write of `v` at a register offset; offset 0 is `CMD` and starts an operation (R33, R104). -/
  | write (off v : Nat)
  /-- A write of one byte of a memory space the host owns (R60). -/
  | fill (sp : HostSpace) (a : Nat) (b : Byte)
deriving DecidableEq, Repr

/-- Which tables a refresh uses (R41). -/
inductive LutSrc where
  | internal
  | programmed
deriving DecidableEq, Repr

/-- One entry of the trace (R47), and a sample of the busy line the gate took (the model's own entry, log 20). -/
inductive Event where
  /-- A bus transaction; `gated` says whether a busy wire was present. -/
  | tx (gated : Bool) (c : Cmd) (data : List Byte)
  /-- An edge of `RESET_N` to `high`, followed by at least `ms` milliseconds (R174). -/
  | resetEdge (high : Bool) (ms : Nat)
  /-- The block sampled `BUSY_N`; `busy` is true for the line low. -/
  | sample (busy : Bool)
deriving DecidableEq, Repr

/-- One action on the pins towards the chip (R37, R170, R173). -/
inductive PinEvent where
  | csAssert
  | csRelease
  | dc (high : Bool)
  | byte (b : Byte)
  | resetN (high : Bool)
deriving DecidableEq, Repr

/-- A register of the chip, or a pin, whose content can become unspecified: the last value written, and, when the
content is unspecified, the number of the free value it then is (spec/93 part 1, "any value"; log 13). -/
structure Shadow (α : Type) where
  last  : α
  loose : Option Nat
deriving DecidableEq, Repr

/-- The operand and configuration registers of R33. -/
structure HostRegs where
  cmd           : Byte
  /-- `ARG_SPEED`, an unsigned number of 3+F bits. -/
  argSpeed      : Nat
  argFlags      : Byte
  argG          : Byte
  cfgWidth      : BitVec 16
  cfgHeight     : BitVec 16
  cfgFlags      : Byte
  cfgFullPeriod : BitVec 32
deriving DecidableEq, Repr

/-- The driver state (R21 to R27). -/
structure Driver where
  /-- `SPEED`, the unsigned number q of speed q/2^F (R21). -/
  speed       : Nat
  fr          : Bool
  updateCount : Nat
  fullPeriod  : Nat
  mirrorX     : Bool
  mirrorY     : Bool
  width       : Nat
  height      : Nat
  hasBusy     : Bool
deriving DecidableEq, Repr

/-- The sequencer and the flags (R28 to R30), and the counter of wait_ready (R172). -/
structure Control where
  seq     : Seq
  op      : Option HostOp
  pos     : Nat
  /-- The actions of the script still to perform, the next one first (R29). -/
  todo    : List Action
  /-- Busy polls of the wait in progress (R172). -/
  polls   : Nat
  running : Bool
  result  : Bool
  err     : ErrClass
  cause   : Cause
  inited  : Bool
  inj     : Bool
  any     : Bool
deriving DecidableEq, Repr

/-- The five table buffers (R31). -/
structure Tables where
  vcom : List Byte
  ww   : List Byte
  wb   : List Byte
  bb   : List Byte
  bw   : List Byte
deriving DecidableEq, Repr

/-- The greyscale working registers (R32). -/
structure Grey where
  g     : Nat
  gbase : Nat
  n1    : Byte
  n2    : Byte
  n3    : Byte
deriving DecidableEq, Repr

/-- A memory space: (address, byte) pairs, addresses strictly rising, no entry equal to the byte 0 that an unlisted
address reads as (log 8). -/
abbrev Memory := List Host.Cell

/-- The six memory spaces (R60). -/
structure Spaces where
  fb0     : Memory
  fb1     : Memory
  lum     : Memory
  lvl     : Memory
  maskOld : Memory
  maskNew : Memory
deriving DecidableEq, Repr

/-- The output pins (R37). `cs` is true while chip-select is asserted; the levels are true for high. -/
structure Pins where
  cs     : Bool
  dc     : Shadow Bool
  resetN : Bool
deriving DecidableEq, Repr

/-- One hold of a voltage code on a line for a number of frames (R100). -/
structure Hold where
  code   : Code
  frames : Byte
deriving DecidableEq, Repr

/-- What each line has been driven with since the last refresh command, oldest first (R100). -/
structure Waves where
  vcom : List Hold
  ww   : List Hold
  wb   : List Hold
  bb   : List Hold
  bw   : List Hold
deriving DecidableEq, Repr

/-- The chip's five table registers (R41). -/
structure ChipTables where
  vcom : Shadow (List Byte)
  ww   : Shadow (List Byte)
  wb   : Shadow (List Byte)
  bb   : Shadow (List Byte)
  bw   : Shadow (List Byte)
deriving DecidableEq, Repr

/-- The chip's waveform engine (R45, R76, R100). -/
structure Engine where
  /-- A refresh is in progress (R44). -/
  active    : Bool
  /-- The lane and the row it runs next; the lanes of a row run one after the other in the model (log 4). -/
  lane      : Lane
  row       : Nat
  /-- The selector, tables and images as they were when the refresh command was received (R76). -/
  src       : Shadow LutSrc
  tables    : ChipTables
  prev      : Shadow (List Byte)
  cur       : Shadow (List Byte)
  /-- The lanes that have met an unused row (log 12). -/
  gap       : List Lane
  /-- When something has reached the chip or its tables of which the spec does not say what it does to this refresh, the
  number of the free bytes the rows still to come then have (log 12, log 14). -/
  disturbed : Option Nat
  waves     : Waves
deriving DecidableEq, Repr

/-- The chip's shadow state (R40 to R45). -/
structure Chip where
  prev        : Shadow (List Byte)
  cur         : Shadow (List Byte)
  tables      : ChipTables
  lutSrc      : Shadow LutSrc
  powered     : Shadow Bool
  partialMode : Shadow Bool
  engine      : Engine
deriving DecidableEq, Repr

/-- The environment: the model's own fields. -/
structure Env where
  /-- The host's coming accesses, the next one first (log 6). -/
  hostIn   : List HostAct
  /-- The levels at which the block samples the busy line now and in the coming steps, one a step, as far as they are
  already fixed; true is busy (log 3). -/
  busyFeed : List Bool
  /-- The levels the host polls now and after the coming steps, one between two steps, as far as they are already fixed
  (log 3). -/
  pollFeed : List Bool
  /-- Who moves at the coming steps of a refresh, as far as already fixed; true is the chip's engine (log 4). -/
  turnFeed : List Bool
  /-- How many steps have been taken: the number of the next free draw (log 3). -/
  moment   : Nat
  /-- How many numbers of free values have been given out (log 13). -/
  free     : Nat
deriving DecidableEq, Repr

/-- What a host operation came to: `RESULT`, `ERR` and `CAUSE` as its return or raise left them (R47 (b)); no operation
for a reserved code. -/
structure OpResult where
  op     : Option HostOp
  result : Bool
  err    : ErrClass
  cause  : Cause
deriving DecidableEq, Repr

/-- The observation (R47) and the pin actions (R173), oldest first. -/
structure Log where
  trace   : List Event
  wire    : List PinEvent
  results : List OpResult
deriving DecidableEq, Repr

structure State where
  /-- The parameters of R7; no step changes them (log 1). -/
  cfg  : Config
  regs : HostRegs
  drv  : Driver
  ctl  : Control
  tabs : Tables
  grey : Grey
  mem  : Spaces
  pins : Pins
  chip : Chip
  env  : Env
  log  : Log
deriving DecidableEq, Repr

/-- A content that is what was last written. -/
abbrev Shadow.known {α : Type} (v : α) : Shadow α := { last := v, loose := none }

/-- Chip tables of zero bytes: the value the model names for power-on (DESIGN CHOICE, log 9). -/
def ChipTables.blank : ChipTables :=
  { vcom := .known (zeros 44), ww := .known (zeros 42), wb := .known (zeros 42), bb := .known (zeros 42),
    bw := .known (zeros 42) }

/-- The engine before any refresh (DESIGN CHOICE, log 9). -/
def Engine.idle : Engine :=
  { active := false, lane := .vcom, row := 0, src := .known .internal, tables := ChipTables.blank, prev := .known [],
    cur := .known [], gap := [], disturbed := none, waves := { vcom := [], ww := [], wb := [], bb := [], bw := [] } }

/-- The machine right after block reset (R300). WIDTH, HEIGHT, the memories, DC and the chip's registers are unspecified
there; their values are DESIGN CHOICEs (logs 7, 8, 9, 10). The parameters have their reference values (log 1). -/
def State.reset : State :=
  { cfg := Config.reference
    regs := { cmd := 0, argSpeed := 0, argFlags := 0, argG := 0, cfgWidth := 0, cfgHeight := 0, cfgFlags := 0x04,
              cfgFullPeriod := 0 }
    drv := { speed := 0, fr := false, updateCount := 0, fullPeriod := 0, mirrorX := false, mirrorY := false,
             width := 0, height := 0, hasBusy := true }
    ctl := { seq := .idle, op := none, pos := 0, todo := [], polls := 0, running := false, result := false,
             err := .none, cause := .none, inited := false, inj := false, any := false }
    tabs := { vcom := zeros 44, ww := zeros 42, wb := zeros 42, bb := zeros 42, bw := zeros 42 }
    grey := { g := 0, gbase := 0, n1 := 0, n2 := 0, n3 := 0 }
    mem := { fb0 := [], fb1 := [], lum := [], lvl := [], maskOld := [], maskNew := [] }
    pins := { cs := false, dc := .known false, resetN := true }
    chip := { prev := .known [], cur := .known [], tables := ChipTables.blank, lutSrc := .known .internal,
              powered := .known false, partialMode := .known false, engine := Engine.idle }
    env := { hostIn := [], busyFeed := [], pollFeed := [], turnFeed := [], moment := 0, free := 0 }
    log := { trace := [], wire := [], results := [] } }

end Sys2Proof.Machine
end

