-- ==== Sys2Proof/Machine/Ops.lean ====
section
/-!
DEFINITION. The named operations over memory, the latches, the logs, the busy line and the bus: raising an error and
returning (spec/60_exceptions.md R264, R270), accepting an operation (spec/10_state.md R30), and `send` with its gate
(spec/41_refresh_sequencer.md R170 to R173).
-/
namespace Sys2Proof.Machine

/-- The outcomes of this machine. -/
abbrev Out := Host.Outcome State Fault Refusal

/-! ### Memory (spec/20_memory.md R60 to R69) -/

/-- What a byte that nothing has written reads as (DESIGN CHOICE, log 8). -/
def Memory.unwritten : Byte := 0

/-- The byte at address `x`. -/
def Memory.read : Memory → Nat → Byte
  | [], _ => Memory.unwritten
  | (a, b) :: m, x => if a = x then b else Memory.read m x

/-- Write one byte, keeping the canonical form. -/
def Memory.write : Memory → Nat → Byte → Memory
  | [], x, b => if b = Memory.unwritten then [] else [(x, b)]
  | (a, c) :: m, x, b =>
    if x < a then (if b = Memory.unwritten then (a, c) :: m else (x, b) :: (a, c) :: m)
    else if x = a then (if b = Memory.unwritten then m else (x, b) :: m)
    else (a, c) :: Memory.write m x b

/-- `n` bytes from address `a` of a list whose first entry is not below `a`. -/
def Memory.walk : Memory → Nat → Nat → List Byte
  | _, _, 0 => []
  | [], a, n + 1 => Memory.unwritten :: Memory.walk [] (a + 1) n
  | (k, b) :: m, a, n + 1 =>
    if k = a then b :: Memory.walk m (a + 1) n else Memory.unwritten :: Memory.walk ((k, b) :: m) (a + 1) n

/-- `MemRead(space, a, n)`: n bytes, lowest address first (spec/00_scope.md R9, R69). -/
def Memory.readRange (m : Memory) (a n : Nat) : List Byte := Memory.walk (m.dropWhile (fun e => e.1 < a)) a n

/-- A space rewritten in full with these bytes from address `a` on (R67: masks, R65: levels). -/
def Memory.ofBytes : Nat → List Byte → Memory
  | _, [] => []
  | a, b :: bs => if b = Memory.unwritten then Memory.ofBytes (a + 1) bs else (a, b) :: Memory.ofBytes (a + 1) bs

/-- Addresses strictly rising from at least `lo`, no entry that reads as unwritten. -/
def Memory.wfFrom : Nat → Memory → Bool
  | _, [] => true
  | lo, (a, b) :: m => decide (lo ≤ a) && b != Memory.unwritten && Memory.wfFrom (a + 1) m

/-- The canonical form of a memory space. -/
def Memory.wf (m : Memory) : Bool := Memory.wfFrom 0 m

/-- The memory of a space. -/
def Spaces.get (m : Spaces) : Space → Memory
  | .fb0 => m.fb0
  | .fb1 => m.fb1
  | .lum => m.lum
  | .lvl => m.lvl
  | .maskOld => m.maskOld
  | .maskNew => m.maskNew

/-- All six spaces are in canonical form. -/
def Spaces.wf (m : Spaces) : Bool :=
  m.fb0.wf && m.fb1.wf && m.lum.wf && m.lvl.wf && m.maskOld.wf && m.maskNew.wf

/-- The space as one of the six. -/
def HostSpace.space : HostSpace → Space
  | .fb0 => .fb0
  | .fb1 => .fb1
  | .lum => .lum

/-- `NP = WIDTH*HEIGHT` (spec/42_greyscale_multiplexer.md). -/
def Driver.np (d : Driver) : Nat := d.width * d.height

/-- `NB = WIDTH*HEIGHT/8` (spec/41_refresh_sequencer.md). -/
def Driver.nb (d : Driver) : Nat := d.width * d.height / 8

/-- How many bytes a host space has: of the panel once INITED, before that of the largest supported panel (R60; the
latter DEDUCED from R302, log 8). -/
def hostSpaceSize (s : State) (sp : HostSpace) : Nat :=
  let np := if s.ctl.inited then s.drv.np
            else (s.cfg.supported.map fun r => r.width * r.height).foldl max 0
  match sp with
  | .lum => np
  | _ => np / 8

/-- One byte of a host space written. -/
def Spaces.putHost (m : Spaces) (sp : HostSpace) (a : Nat) (b : Byte) : Spaces :=
  match sp with
  | .fb0 => { m with fb0 := m.fb0.write a b }
  | .fb1 => { m with fb1 := m.fb1.write a b }
  | .lum => { m with lum := m.lum.write a b }

/-- The host fills one byte of a space it owns (R60, spec/70_reset_and_hazards.md R302). -/
def hostFill (s : State) (sp : HostSpace) (a : Nat) (b : Byte) : Out :=
  if a < hostSpaceSize s sp then .next { s with mem := s.mem.putHost sp a b } else .fault .outsideSpace

/-! ### Accepting, returning, raising -/

/-- Acceptance of a host operation: RUNNING set, ERR and CAUSE cleared, the script at its start (R29, R30). -/
def accept (op : Option HostOp) (s : State) : State :=
  { s with ctl := { s.ctl with running := true, err := .none, cause := .none, op := op, pos := 0, polls := 0,
                               todo := [] } }

/-- What the operation in progress came to is noted (R47 (b)). -/
def noteResult (result : Bool) (err : ErrClass) (cause : Cause) (s : State) : State :=
  { s with log := { s.log with results := s.log.results ++ [⟨s.ctl.op, result, err, cause⟩] } }

/-- `return v`: RESULT written, RUNNING cleared, no operation in progress (R30). -/
def ret (v : Bool) (s : State) : State :=
  { noteResult v s.ctl.err s.ctl.cause s with
    ctl := { s.ctl with running := false, result := v, op := none, pos := 0, polls := 0, todo := [] } }

/-- `raise E(cause)`: ERR and CAUSE latched, RESULT and RUNNING cleared, the rest of the script not performed; SEQ and
everything else as it was (spec/60_exceptions.md R264). -/
def raise (e : ErrClass) (c : Cause) (s : State) : State :=
  { noteResult false e c s with
    ctl := { s.ctl with running := false, result := false, err := e, cause := c, op := none, pos := 0,
                        polls := 0, todo := [] } }

/-- The accepted operation goes on with this script. -/
def start (script : List Action) (s : State) : State := { s with ctl := { s.ctl with todo := script } }

/-- The sequencer after an action: POS advances by one, and everything else it holds stays (R29). -/
def Control.next (c : Control) : Control := { c with todo := c.todo.tail, pos := c.pos + 1, polls := 0 }

/-- The action at POS is done (R29). -/
def advance (s : State) : State := { s with ctl := s.ctl.next }

/-- A write to CMD: held while an operation runs (R191), else accepted; an operation other than INIT needs INITED, else
it is Unspecified cause 2 (spec/70_reset_and_hazards.md R303, spec/60_exceptions.md R268). -/
def hostOp (op : HostOp) (body : State → State) (s : State) : State :=
  if s.ctl.running then s
  else if op ≠ .init ∧ s.ctl.inited = false then raise .unspecified .beforeInit (accept (some op) s)
  else body (accept (some op) s)

/-! ### The logs -/

/-- The trace gains an entry. -/
def logEvent (e : Event) (s : State) : State := { s with log := { s.log with trace := s.log.trace ++ [e] } }

/-- The pin actions of one transaction: chip-select around it, DC low for the opcode byte and high for the data bytes
(R170, R173). -/
def pinFrame (o : Byte) (data : List Byte) : List PinEvent :=
  [.csAssert, .dc false, .byte o] ++ (if data.isEmpty then [] else .dc true :: data.map .byte) ++ [.csRelease]

/-! ### The busy line -/

/-- The level at which the block samples the busy line in this step, true for busy: asserted while a refresh is in
progress, else the level the environment has fixed, else a free draw (R44; DEDUCED, log 3). -/
def busyLevel (s : State) : Bool :=
  if s.chip.engine.active then true
  else match s.env.busyFeed with
    | b :: _ => b
    | [] => Config.busyDraw s.env.moment

/-- The level a host poll sees between two steps, a moment of its own: asserted while a refresh is in progress, else
fixed or drawn apart from the samples of the steps before and after it (R44 (a), R171; DEDUCED, log 3). -/
def pollLevel (s : State) : Bool :=
  if s.chip.engine.active then true
  else match s.env.pollFeed with
    | b :: _ => b
    | [] => Config.pollDraw s.env.moment

/-- `is_busy()` as a value: false without a busy wire (R171). A step makes at most one call, so each call is a fresh
sample. -/
def isBusyNow (s : State) : Bool := s.drv.hasBusy && busyLevel s

/-- `is_busy()` as an action: with a busy wire the sample is noted. -/
def afterIsBusy (s : State) : State := if s.drv.hasBusy then logEvent (.sample (busyLevel s)) s else s

/-- A busy poll of wait_ready: POS stays; HardwareTimeout when BUSY_TIMEOUT is set and passed (R172, R262). -/
def held (s : State) : State :=
  match s.cfg.busyTimeout with
  | some n =>
    if n < s.ctl.polls + 1 then raise .timeout .none s
    else { s with ctl := { s.ctl with polls := s.ctl.polls + 1 } }
  | none => { s with ctl := { s.ctl with polls := s.ctl.polls + 1 } }

/-! ### Free values -/

/-- `k` new numbers of free values are given out; the first of them is the number `s.env.free` before. -/
def takeFree (k : Nat) (s : State) : State := { s with env := { s.env with free := s.env.free + k } }

/-! ### send (R170) -/

/-- The transaction itself, one atomic step: trace entry, pin actions, DC left at a level the spec does not give
(spec/93 U12), CS released. -/
def emit (c : Cmd) (data : List Byte) (s : State) : State :=
  { s with
    log := { s.log with trace := s.log.trace ++ [.tx s.drv.hasBusy c data]
                        wire := s.log.wire ++ pinFrame (s.cfg.opc.byteOf c) data }
    pins := { s.pins with cs := false, dc := { last := !data.isEmpty, loose := some s.env.free } } }

/-- What a transaction does to the chip: `ready` when the chip is not busy; `smear n` when it is busy, which only
happens without a busy wire: every content the command and the running refresh touch becomes free, numbered from n
(spec/93 U7; log 14). -/
structure ChipEffect where
  ready : Chip → Chip
  smear : Nat → Chip → Chip

/-- `send(c, D)`: with a busy wire the gate takes a sample and the block is held while it says busy; then the
transaction goes out, the chip acts on it, and POS advances. -/
def busSend (c : Cmd) (data : List Byte) (eff : ChipEffect) (s : State) : State :=
  if isBusyNow s then held (afterIsBusy s)
  else
    let act := if busyLevel s then eff.smear (s.env.free + 1) else eff.ready
    let s' := emit c data (afterIsBusy s)
    advance (takeFree 10 { s' with chip := act s'.chip })

end Sys2Proof.Machine
end

