-- ==== Sys2Proof/Machine/Chip.lean ====
section
/-!
DEFINITION. What transactions and the hardware reset do to the chip's shadow state (spec/10_state.md R40 to R45), and
the waveform engine that runs the phase rows of a refresh (spec/30_encoding.md R100).
-/
namespace Sys2Proof.Machine

/-! ### Contents -/

/-- The content is now the free value number n; what was last written stays on record. -/
def Shadow.loosen {α : Type} (n : Nat) (x : Shadow α) : Shadow α := { x with loose := some n }

/-- Byte i of a content: the written byte, or the free value. A byte that the content does not have reads 0: DESIGN
CHOICE (log 9). Only the image slots at reset, which hold no bytes, and the data of an ill-formed instruction are that
short, since the decoder gives an image or table command its full length (R110). -/
def Shadow.byteAt (x : Shadow (List Byte)) (i : Nat) : Byte :=
  match x.loose with
  | some n => Config.freeByte n i
  | none => x.last[i]?.getD 0

/-- A one-bit content. -/
def Shadow.bit (x : Shadow Bool) : Bool :=
  match x.loose with
  | some n => Config.freeBit n
  | none => x.last

/-- The LUT source in force: the written one, or either (R41). -/
def Shadow.source (x : Shadow LutSrc) : LutSrc :=
  match x.loose with
  | some n => if Config.freeBit n then .programmed else .internal
  | none => x.last

/-- The content is v (R40, R41). -/
def Shadow.put {α : Type} (v : α) (_ : Shadow α) : Shadow α := .known v

/-! ### Tables -/

/-- The five table registers by lane. -/
def ChipTables.get (t : ChipTables) : Lane → Shadow (List Byte)
  | .vcom => t.vcom
  | .ww => t.ww
  | .wb => t.wb
  | .bb => t.bb
  | .bw => t.bw

/-- One table register changed. -/
def ChipTables.modify (t : ChipTables) (l : Lane) (x : Shadow (List Byte)) : ChipTables :=
  match l with
  | .vcom => { t with vcom := x }
  | .ww => { t with ww := x }
  | .wb => { t with wb := x }
  | .bb => { t with bb := x }
  | .bw => { t with bw := x }

/-- What happens to this refresh from here on is not stated (spec/93 U7): the bytes of every row still to come, and the
images it sorts the pixels by, are free values, numbered from n. -/
def Engine.disturb (n : Nat) (e : Engine) : Engine :=
  { e with disturbed := some n, prev := e.prev.loosen (n + 1), cur := e.cur.loosen (n + 2) }

/-- A command that reaches a busy chip leaves the running refresh, if there is one, unspecified (spec/93 U7; log 14). -/
def Chip.disturb (n : Nat) (c : Chip) : Chip :=
  if c.engine.active then { c with engine := c.engine.disturb n } else c

/-- A table register is written whole by the data of its table-load transaction (R41). -/
def loadTable (l : Lane) (data : List Byte) : ChipEffect :=
  { ready := fun c => { c with tables := c.tables.modify l (.known data) }
    smear := fun n c => { c with tables := c.tables.modify l ⟨data, some n⟩ }.disturb (n + 1) }

/-! ### The panel configuration byte (R41, R112) -/

/-- The LUT source a panel configuration byte selects: the bits that only `PSR_SRC` sets, compared with its two
constants (R112); a byte that has neither pattern leaves the source unspecified (DEDUCED, log 17). -/
def sourceOfPsr (cfg : Config) (b : Byte) : Option LutSrc :=
  if b &&& cfg.psrSrcBits = cfg.psr.srcProg &&& cfg.psrSrcBits then some .programmed
  else if b &&& cfg.psrSrcBits = cfg.psr.srcInternal &&& cfg.psrSrcBits then some .internal
  else none

/-- The selector after a panel configuration byte. -/
def writePsr (cfg : Config) (b : Byte) (n : Nat) : ChipEffect :=
  { ready := fun c =>
      match sourceOfPsr cfg b with
      | some src => { c with lutSrc := .known src }
      | none => { c with lutSrc := c.lutSrc.loosen n }
    smear := fun n c =>
      { c with lutSrc := ⟨(sourceOfPsr cfg b).getD c.lutSrc.last, some n⟩ }.disturb (n + 1) }

/-! ### Images, power, partial mode -/

/-- `CHIP.PREV` is written by the data of CMD_DATA_PREVIOUS (R40). -/
def writePrev (data : List Byte) : ChipEffect :=
  { ready := fun c => { c with prev := .known data }
    smear := fun n c => { c with prev := ⟨data, some n⟩ }.disturb (n + 1) }

/-- `CHIP.CUR` is written by the data of CMD_DATA_CURRENT (R40). -/
def writeCur (data : List Byte) : ChipEffect :=
  { ready := fun c => { c with cur := .known data }
    smear := fun n c => { c with cur := ⟨data, some n⟩ }.disturb (n + 1) }

/-- `CHIP.POWERED` set or cleared (R42). -/
def setPower (on : Bool) : ChipEffect :=
  { ready := fun c => { c with powered := .known on }
    smear := fun n c => { c with powered := ⟨on, some n⟩ }.disturb (n + 1) }

/-- The partial-update mode is cleared (R43). -/
def clearPartial : ChipEffect :=
  { ready := fun c => { c with partialMode := .known false }
    smear := fun n c => { c with partialMode := ⟨false, some n⟩ }.disturb (n + 1) }

/-- A transaction that changes nothing the spec names in the chip: the end of data, a raw register (R109, R46). -/
def noChipState : ChipEffect :=
  { ready := fun c => c
    smear := fun n c => c.disturb n }

/-! ### Refresh -/

/-- The lanes of one row in the order the model runs them; the hardware runs them in parallel (R100; log 4). -/
def nextLane : Lane → Option Lane
  | .vcom => some .ww
  | .ww => some .wb
  | .wb => some .bb
  | .bb => some .bw
  | .bw => none

/-- The two trailing bytes of the VCOM register are not 0x00: what the chip does with other values is any value
(spec/93 U2). -/
def ChipTables.trailingSet (t : ChipTables) : Bool :=
  match t.vcom.loose with
  | some _ => true
  | none => (t.vcom.last.drop 42).any (fun b => b != 0)

/-- The refresh command: the engine starts at row 0 with the tables, selector and images the chip holds now (R76,
R45), and with nothing recorded. With trailing VCOM bytes set its rows are free, numbered n (spec/93 U2). -/
def Engine.start (n : Nat) (c : Chip) : Engine :=
  { active := true, lane := .vcom, row := 0, src := c.lutSrc, tables := c.tables, prev := c.prev, cur := c.cur,
    gap := [], disturbed := if c.lutSrc != .known .internal && c.tables.trailingSet then some n else none,
    waves := { vcom := [], ww := [], wb := [], bb := [], bw := [] } }

/-- A refresh is triggered (R70). Received while the chip is busy, whether a refresh starts is unspecified: one that is
running goes on (spec/70_reset_and_hazards.md R318), with every row from there on free (log 14). -/
def triggerRefresh (n : Nat) : ChipEffect :=
  { ready := fun c => { c with engine := Engine.start n c }
    smear := fun n c =>
      if c.engine.active then c.disturb n else { c with engine := (Engine.start n c).disturb n } }

/-- A number for each lane. -/
def laneNumber : Lane → Nat
  | .vcom => 0
  | .ww => 1
  | .wb => 2
  | .bb => 3
  | .bw => 4

/-- Byte i of the table a lane runs in this refresh: the table registers, or the built-in tables (R41, R76); a free value
once something has left the refresh unspecified. -/
def Engine.byteOf (e : Engine) (l : Lane) (i : Nat) : Byte :=
  match e.disturbed with
  | some n => Config.freeByte n (64 * laneNumber l + i)
  | none =>
    match e.src.source with
    | .programmed => (e.tables.get l).byteAt i
    | .internal => Config.romByte (laneNumber l) i

/-- The six bytes of the row the engine is at (R90). -/
def Engine.fetch (e : Engine) : List Byte :=
  (List.range 6).map fun k => e.byteOf e.lane (6 * e.row + k)

/-- The holds of a lane. -/
def Waves.get (w : Waves) : Lane → List Hold
  | .vcom => w.vcom
  | .ww => w.ww
  | .wb => w.wb
  | .bb => w.bb
  | .bw => w.bw

/-- The holds of a lane extended. -/
def Waves.push (w : Waves) (l : Lane) (h : List Hold) : Waves :=
  match l with
  | .vcom => { w with vcom := w.vcom ++ h }
  | .ww => { w with ww := w.ww ++ h }
  | .wb => { w with wb := w.wb ++ h }
  | .bb => { w with bb := w.bb ++ h }
  | .bw => { w with bw := w.bw ++ h }

/-- A row as the engine runs it. -/
structure RowOp where
  c0  : Code
  c1  : Code
  c2  : Code
  c3  : Code
  d0  : Byte
  d1  : Byte
  d2  : Byte
  d3  : Byte
  rep : Byte
deriving DecidableEq, Repr

/-- The four holds of one run of a row (R100). -/
def RowOp.holds (r : RowOp) : List Hold := [⟨r.c0, r.d0⟩, ⟨r.c1, r.d1⟩, ⟨r.c2, r.d2⟩, ⟨r.c3, r.d3⟩]

/-- The holds of a row: the four in turn, REP times (R100). -/
def RowOp.run (r : RowOp) : List Hold := (List.replicate r.rep.toNat r.holds).flatten

/-- A row of free values, numbered n: what a used row after an unused one of its table does is any of these (spec/93 U11;
log 12). -/
def RowOp.free (n : Nat) : RowOp :=
  let p := Config.freeByte n 0
  ⟨patCode p 0, patCode p 1, patCode p 2, patCode p 3, Config.freeByte n 1, Config.freeByte n 2, Config.freeByte n 3,
    Config.freeByte n 4, Config.freeByte n 5⟩

/-- The engine is at the last row of the last lane. -/
def Engine.atEnd (e : Engine) : Bool := nextLane e.lane == none && decide (6 ≤ e.row)

/-- The engine moves on to the next lane of the row, or to the next row (R100, R90). -/
def Engine.forward (e : Engine) : Engine :=
  match nextLane e.lane with
  | some l => { e with lane := l }
  | none => { e with lane := .vcom, row := e.row + 1 }

/-- A row is done. After the last row of the last lane the refresh ends: busy is released to the chip's choice, and the
two image slots are unspecified (spec/93 U8; log 13). -/
def rowDone (s : State) : State :=
  if s.chip.engine.atEnd then
    takeFree 2 { s with chip := { s.chip with engine := { s.chip.engine with active := false }
                                              prev := s.chip.prev.loosen s.env.free
                                              cur := s.chip.cur.loosen (s.env.free + 1) } }
  else { s with chip := { s.chip with engine := s.chip.engine.forward } }

/-- A used row: its four sub-phases in turn, REP times (R100). After an unused row of the same table it runs as a free
row (spec/93 U11; log 12). -/
def driveRow (r : RowOp) (s : State) : State :=
  let e := s.chip.engine
  let r' := if e.gap.contains e.lane then RowOp.free s.env.free else r
  rowDone (takeFree 1 { s with chip := { s.chip with engine := { e with waves := e.waves.push e.lane r'.run } } })

/-- A row with REP = 0 is skipped (R95, R100); the lane has met an unused row. -/
def skipRow (s : State) : State :=
  let e := s.chip.engine
  rowDone { s with chip := { s.chip with engine := { e with gap := e.lane :: e.gap } } }

/-- The engine runs one row of the current lane. -/
def runRow (r : RowOp) (s : State) : State := if r.rep = 0 then skipRow s else driveRow r s

/-! ### What a refresh means for a pixel (R45) -/

/-- Bit i of a pixel buffer: byte i div 8, bit 7 - (i mod 8) (spec/20_memory.md R62). -/
def pixelOf (byteAt : Nat → Byte) (i : Nat) : Bool := (byteAt (i / 8)).getLsbD (7 - i % 8)

/-- The class of pixel i in the running or last refresh: previous bit first, new bit second, 0 white, 1 black
(R45, spec/20_memory.md R66). -/
def Engine.classOf (e : Engine) (i : Nat) : Lane :=
  match pixelOf e.prev.byteAt i, pixelOf e.cur.byteAt i with
  | false, false => .ww
  | false, true => .wb
  | true, true => .bb
  | true, false => .bw

/-- What pixel i has been driven with: the holds of its class's lane (R45, R100). -/
def Engine.pixelWave (e : Engine) (i : Nat) : List Hold := e.waves.get (e.classOf i)

/-- The frames a list of holds takes (R100, R94). -/
def holdFrames (h : List Hold) : Nat := (h.map fun x => x.frames.toNat).sum

/-! ### Hardware reset of the chip -/

/-- After the hardware reset: powered off; table registers, LUT source, image slots and partial mode unspecified
(spec/70_reset_and_hazards.md R301). A refresh in progress is not stopped by any host operation (R318), but what the
reset does to it is not stated: its further rows are free (log 18). -/
def Chip.hardReset (c : Chip) (n : Nat) : Chip :=
  { c.disturb (n + 9) with
    powered := .known false
    partialMode := c.partialMode.loosen n
    lutSrc := c.lutSrc.loosen (n + 1)
    prev := c.prev.loosen (n + 2)
    cur := c.cur.loosen (n + 3)
    tables := { vcom := c.tables.vcom.loosen (n + 4), ww := c.tables.ww.loosen (n + 5),
                wb := c.tables.wb.loosen (n + 6), bb := c.tables.bb.loosen (n + 7), bw := c.tables.bw.loosen (n + 8) } }

end Sys2Proof.Machine
end

