-- ==== Sys2Proof/Machine/Operands.lean ====
section
/-!
DEFINITION. Operands of host operations (spec/30_encoding.md R106, spec/10_state.md R33, R35) and of bus transactions
(R109, R112).
-/
namespace Sys2Proof.Machine

/-! ### The speed (spec/40_lut_synthesizer.md R132) -/

/-- Speed 1 in units of 1/2^F. -/
def speedOne (c : Config) : Nat := 2 ^ c.fracBits

/-- `SPEED_CHECK(q)`: 0, or 2^F to 6*2^F (R132). -/
def speedOk (c : Config) (q : Nat) : Bool := q == 0 || (decide (speedOne c ≤ q) && decide (q ≤ 6 * speedOne c))

/-- `SPEED >= 1`: the programmed regime (spec/00_scope.md R12). -/
def Driver.programmed (d : Driver) (c : Config) : Bool := decide (speedOne c ≤ d.speed)

/-! ### Fields of the operand registers (R33, R35) -/

/-- `A_FR`. -/
def HostRegs.aFr (r : HostRegs) : Bool := r.argFlags.getLsbD 0

/-- `A_FR_VALID`. -/
def HostRegs.aFrValid (r : HostRegs) : Bool := r.argFlags.getLsbD 1

/-- `A_BLOCKING`. -/
def HostRegs.aBlocking (r : HostRegs) : Bool := r.argFlags.getLsbD 2

/-- `A_BUF_SEL`. -/
def HostRegs.aBufSel (r : HostRegs) : Bool := r.argFlags.getLsbD 3

/-- The buffer an UPDATE transfers (spec/41_refresh_sequencer.md R190). -/
def HostRegs.buffer (r : HostRegs) : Space := if r.aBufSel then .fb1 else .fb0

/-- A host write at an offset other than `CMD`: plain storage of the register's width, reserved bits ignored, read-only
and unlisted offsets ignored (R33, R35, spec/93 U16). -/
def hostStore (c : Config) (off v : Nat) (r : HostRegs) : HostRegs :=
  match off with
  | 0x02 => { r with argSpeed := v % 2 ^ (3 + c.fracBits) }
  | 0x03 => { r with argFlags := BitVec.ofNat 8 v &&& 0x0F }
  | 0x04 => { r with argG := BitVec.ofNat 8 v }
  | 0x05 => { r with cfgWidth := BitVec.ofNat 16 v }
  | 0x06 => { r with cfgHeight := BitVec.ofNat 16 v }
  | 0x07 => { r with cfgFlags := BitVec.ofNat 8 v &&& 0x07 }
  | 0x08 => { r with cfgFullPeriod := BitVec.ofNat 32 v }
  | _ => r

/-- A host write at an offset other than `CMD`. -/
def hostWrite (off v : Nat) (s : State) : State := { s with regs := hostStore s.cfg off v s.regs }

/-! ### The panel configuration byte (spec/30_encoding.md R112) -/

/-- The supported pair, if (w, h) is one. -/
def resolutionOf (c : Config) (w h : Nat) : Option Resolution :=
  c.supported.find? fun r => r.width == w && r.height == h

/-- The resolution check of INIT (R175, spec/20_memory.md R63). -/
def resolutionOk (c : Config) (w h : Nat) : Bool := (resolutionOf c w h).isSome && (w * h) % 8 == 0

/-- `BUILD_PSR(w, h, src, mx, my)` (R112). -/
def buildPsr (c : Config) (w h : Nat) (src : LutSrc) (mx my : Bool) : Except Cause Byte :=
  match resolutionOf c w h with
  | none => .error .resolution
  | some r =>
    .ok (c.psr.base ||| r.bits |||
      (match src with
       | .internal => c.psr.srcInternal
       | .programmed => c.psr.srcProg) |||
      (if mx then c.psr.mx1 else c.psr.mx0) ||| (if my then c.psr.my1 else c.psr.my0))

/-- The source of the panel byte: INTERNAL if SPEED = 0, else PROGRAMMED (R112, R177). -/
def Driver.source (d : Driver) : LutSrc := if d.speed = 0 then .internal else .programmed

/-! ### Data of a transaction -/

/-- The table buffer of a lane (spec/10_state.md R31). -/
def Tables.get (t : Tables) : Lane → List Byte
  | .vcom => t.vcom
  | .ww => t.ww
  | .wb => t.wb
  | .bb => t.bb
  | .bw => t.bw

/-- The data bytes of a `send`, read now (R9, R68, R177, R182, R228). -/
def payload (s : State) : Payload → Except Cause (List Byte)
  | .bytes d => .ok d
  | .psr =>
    match buildPsr s.cfg s.drv.width s.drv.height s.drv.source s.drv.mirrorX s.drv.mirrorY with
    | .ok b => .ok [b]
    | .error c => .error c
  | .table l => .ok (s.tabs.get l)
  | .buffer sp => .ok ((s.mem.get sp).readRange 0 s.drv.nb)

end Sys2Proof.Machine
end

