-- ==== Sys2Proof/Machine/BusCommands.lean ====
section
/-!
DEFINITION. The meanings of the bus commands (spec/30_encoding.md R109): each is one `send` (spec/41 R170) with the
effect its data has in the chip (spec/20_memory.md R70, R78).
-/
namespace Sys2Proof.Machine

/-- CMD_PANEL_CONFIG: the byte selects the LUT source (R112, spec/10_state.md R41). -/
def execCmdPanelConfig (psr : Byte) (s : State) : Out :=
  .next (busSend .panelConfig [psr] (writePsr s.cfg psr (s.env.free + 1)) s)

/-- CMD_POWER_OFF (R42). -/
def execCmdPowerOff (s : State) : Out := .next (busSend .powerOff [] (setPower false) s)

/-- CMD_POWER_ON (R42). -/
def execCmdPowerOn (s : State) : Out := .next (busSend .powerOn [] (setPower true) s)

/-- CMD_DATA_PREVIOUS (R40). -/
def execCmdDataPrevious (data : List Byte) (s : State) : Out := .next (busSend .dataPrevious data (writePrev data) s)

/-- CMD_DATA_STOP: "signal end-of-data" (R109); the spec names no chip state it changes. -/
def execCmdDataStop (s : State) : Out := .next (busSend .dataStop [] noChipState s)

/-- CMD_REFRESH (R70, R76). -/
def execCmdRefresh (s : State) : Out := .next (busSend .refresh [] (triggerRefresh (s.env.free + 1)) s)

/-- CMD_DATA_CURRENT (R40). -/
def execCmdDataCurrent (data : List Byte) (s : State) : Out := .next (busSend .dataCurrent data (writeCur data) s)

/-- CMD_LUT_VCOM (R41, R143). -/
def execCmdLutVcom (data : List Byte) (s : State) : Out := .next (busSend .lutVcom data (loadTable .vcom data) s)

/-- CMD_LUT_WW (R41, R143). -/
def execCmdLutWw (data : List Byte) (s : State) : Out := .next (busSend .lutWw data (loadTable .ww data) s)

/-- CMD_LUT_BW (R41, R143). -/
def execCmdLutBw (data : List Byte) (s : State) : Out := .next (busSend .lutBw data (loadTable .bw data) s)

/-- CMD_LUT_WB (R41, R143). -/
def execCmdLutWb (data : List Byte) (s : State) : Out := .next (busSend .lutWb data (loadTable .wb data) s)

/-- CMD_LUT_BB (R41, R143). -/
def execCmdLutBb (data : List Byte) (s : State) : Out := .next (busSend .lutBb data (loadTable .bb data) s)

/-- CMD_PARTIAL_OUT (R43). -/
def execCmdPartialOut (s : State) : Out := .next (busSend .partialOut [] clearPartial s)

/-- CMD_RAW(o): the trace entry; the spec names no chip state a further register write changes (R109, R46; log 15). With
a named opcode and another length than the command is ever sent with (R110), what the named command touches is free; with
the refresh opcode and data bytes a refresh starts, every row of it free, though the spec does not say that one starts
(DESIGN CHOICE, log 15). -/
def rawEffect (c : Config) (o : Byte) (data : List Byte) (n : Nat) : ChipEffect :=
  let loose := fun (eff : ChipEffect) => ({ eff with ready := eff.smear n } : ChipEffect)
  match c.opc.find o with
  | none => noChipState
  | some .panelConfig => loose (writePsr c (data.headD 0) n)
  | some .powerOff => loose (setPower false)
  | some .powerOn => loose (setPower true)
  | some .refresh => loose (triggerRefresh n)
  | some .lutVcom => loose (loadTable .vcom data)
  | some .lutWw => loose (loadTable .ww data)
  | some .lutWb => loose (loadTable .wb data)
  | some .lutBb => loose (loadTable .bb data)
  | some .lutBw => loose (loadTable .bw data)
  | some .partialOut => loose clearPartial
  | some .dataPrevious => loose (writePrev data)
  | some .dataCurrent => loose (writeCur data)
  | some .dataStop => loose noChipState
  | some (.raw _) => noChipState

/-- CMD_RAW(o). -/
def execCmdRaw (o : Byte) (data : List Byte) (s : State) : Out :=
  .next (busSend (.raw o) data (rawEffect s.cfg o data (s.env.free + 1)) s)

end Sys2Proof.Machine
end

