-- ==== Sys2Proof/Machine/Flags.lean ====
section
/-!
DEFINITION. The flags and latches as software reads them: the codes of spec/10_state.md R28 and
spec/60_exceptions.md R265, the fields of STATUS (R34) and ST_FLAGS (R33), and the injection condition
(spec/41_refresh_sequencer.md R180).
-/
namespace Sys2Proof.Machine

/-- The 3-bit code of SEQ (R28). -/
def Seq.code : Seq → BitVec 3
  | .idle => 0
  | .powering => 1
  | .transferring => 2
  | .refreshing => 3
  | .poweredOn => 4
  | .poweringOff => 5

/-- The 3-bit ERR code (R265). -/
def ErrClass.code : ErrClass → BitVec 3
  | .none => 0
  | .configuration => 1
  | .timeout => 2
  | .data => 3
  | .unspecified => 7

/-- The 4-bit CAUSE code: of ConfigurationError as R261 numbers them, of Unspecified as R265 does. -/
def Cause.code : Cause → BitVec 4
  | .none => 0
  | .resolution => 1
  | .speed => 2
  | .rowIndex => 3
  | .reservedOp => 4
  | .greyLevels => 5
  | .duration => 6
  | .fadeOut => 1
  | .beforeInit => 2
  | .greyAtSpeedZero => 3

/-- STATUS: CAUSE, INITED, SEQ, CHIP_BUSY, ERR, two reserved bits, RESULT, RUNNING (R34). CHIP_BUSY is `is_busy()` at the
moment of the read, which no sample of the block shares (R171; log 3). -/
def statusWord (s : State) : BitVec 16 :=
  s.ctl.cause.code ++ BitVec.ofBool s.ctl.inited ++ s.ctl.seq.code ++ BitVec.ofBool (s.drv.hasBusy && pollLevel s) ++ s.ctl.err.code ++
    (0 : BitVec 2) ++ BitVec.ofBool s.ctl.result ++ BitVec.ofBool s.ctl.running

/-- ST_FLAGS: three reserved bits, MIRROR_Y, MIRROR_X, HAS_BUSY, INITED, FR (R33). -/
def stFlags (s : State) : BitVec 8 :=
  (0 : BitVec 3) ++ BitVec.ofBool s.drv.mirrorY ++ BitVec.ofBool s.drv.mirrorX ++ BitVec.ofBool s.drv.hasBusy ++
    BitVec.ofBool s.ctl.inited ++ BitVec.ofBool s.drv.fr

/-- A read-only window on a table buffer: byte off - base, 0 outside it (R33). -/
def window (t : List Byte) (base off : Nat) : Nat := (t[off - base]?.getD 0).toNat

/-- What the host reads at an offset; `none` for `CMD`, which is write-only (R33; log 19). A read has no side effect
(R34), so it is a function of the state. -/
def hostRead (s : State) (off : Nat) : Option Nat :=
  if off = 0x00 then none
  else if off = 0x01 then some (statusWord s).toNat
  else if off = 0x02 then some s.regs.argSpeed
  else if off = 0x03 then some s.regs.argFlags.toNat
  else if off = 0x04 then some s.regs.argG.toNat
  else if off = 0x05 then some s.regs.cfgWidth.toNat
  else if off = 0x06 then some s.regs.cfgHeight.toNat
  else if off = 0x07 then some s.regs.cfgFlags.toNat
  else if off = 0x08 then some s.regs.cfgFullPeriod.toNat
  else if off = 0x09 then some s.drv.speed
  else if off = 0x0A then some (stFlags s).toNat
  else if off = 0x0B then some (s.drv.updateCount % 2 ^ 32)
  else if off = 0x0C then some s.drv.fullPeriod
  else if 0x100 ≤ off ∧ off ≤ 0x12B then some (window s.tabs.vcom 0x100 off)
  else if 0x140 ≤ off ∧ off ≤ 0x169 then some (window s.tabs.ww 0x140 off)
  else if 0x180 ≤ off ∧ off ≤ 0x1A9 then some (window s.tabs.wb 0x180 off)
  else if 0x1C0 ≤ off ∧ off ≤ 0x1E9 then some (window s.tabs.bb 0x1C0 off)
  else if 0x200 ≤ off ∧ off ≤ 0x229 then some (window s.tabs.bw 0x200 off)
  else some 0

/-- `INJ`: the UPDATE is a forced full refresh (R180). -/
def injects (s : State) : Bool :=
  s.drv.fr && s.drv.programmed s.cfg && s.drv.fullPeriod != 0 && s.drv.updateCount % s.drv.fullPeriod == 0

end Sys2Proof.Machine
end

