-- ==== Sys2Proof/Machine/Synth.lean ====
section
/-!
DEFINITION. The waveform synthesizer (spec/40_lut_synthesizer.md) and the row encoder and decoder it is made of
(spec/30_encoding.md R97, R98).
-/
namespace Sys2Proof.Machine

/-! ### Row encoder and decoder -/

/-- The operands of SET_LUT_ROW beside the table and the index: integers (R97). -/
structure RowArgs where
  pat : Int
  d0  : Int
  d1  : Int
  d2  : Int
  d3  : Int
  rep : Int
deriving DecidableEq, Repr

/-- A value that fits a byte (R94, R97). -/
def inByte (v : Int) : Bool := decide (0 ≤ v) && decide (v ≤ 255)

/-- The byte of a value that fits one. -/
def byteOfInt (v : Int) : Byte := BitVec.ofInt 8 v

/-- The six bytes of the operands (R97). -/
def RowArgs.bytes (a : RowArgs) : List Byte :=
  [byteOfInt a.pat, byteOfInt a.d0, byteOfInt a.d1, byteOfInt a.d2, byteOfInt a.d3, byteOfInt a.rep]

/-- Every operand fits a byte (R97). -/
def RowArgs.fits (a : RowArgs) : Bool :=
  inByte a.pat && inByte a.d0 && inByte a.d1 && inByte a.d2 && inByte a.d3 && inByte a.rep

/-- `SET_LUT_ROW(T, r, pat, d0, d1, d2, d3, rep)`: six bytes of T replaced, or ConfigurationError (R97). -/
def setLutRow (t : List Byte) (r : Int) (a : RowArgs) : Except Cause (List Byte) :=
  if r < 0 ∨ 7 ≤ r then .error .rowIndex
  else if a.fits then
    .ok (t.take (6 * r.toNat) ++ a.bytes ++ t.drop (6 * r.toNat + 6))
  else .error .duration

/-- `GET_LUT_ROW(T, r)` for r in 0..6: the six bytes (R98). -/
def getLutRow (t : List Byte) (r : Nat) : List Byte := (List.range 6).map fun k => t[6 * r + k]?.getD 0

/-- Rows written from index `r` up (R138). -/
def setRows (t : List Byte) (r : Int) : List RowArgs → Except Cause (List Byte)
  | [] => .ok t
  | a :: as =>
    match setLutRow t r a with
    | .ok t' => setRows t' (r + 1) as
    | .error c => .error c

/-! ### Arithmetic (R130, R131, R148) -/

/-- The largest m not above `bound` with m^k ≤ n. -/
def irootBelow (n k : Nat) : Nat → Nat
  | 0 => 0
  | m + 1 => if (m + 1) ^ k ≤ n then m + 1 else irootBelow n k m

/-- `PERIOD(s)` as R148 computes it. The root of 2^E with E ≤ 7*2^F is at most 128. -/
def period (c : Config) (q : Nat) : Nat :=
  max (irootBelow (2 ^ (7 * 2 ^ c.fracBits - q)) (2 ^ c.fracBits) 128) 1

/-- `HALF_PERIOD(s)` (R131). -/
def halfPeriod (c : Config) (q : Nat) : Nat := period c q / 2

/-! ### Phase selection (R133, R134) -/

/-- `HAS_SETTLE` (R133). -/
def hasSettle (c : Config) (q : Nat) : Bool := decide (q < c.fastThreshold)

/-- `HAS_PINGPONG` (R133). -/
def hasPingpong (c : Config) (q : Nat) (fr : Bool) : Bool := !fr && decide (q < c.ppThreshold)

/-- `FINAL_REPEAT` (R134). -/
def finalRepeat (c : Config) (q : Nat) (fr : Bool) : Nat := if c.fastThreshold ≤ q ∨ fr then 2 else 1

/-- `PP_REPEAT` (R136). -/
def ppRepeat (c : Config) (q : Nat) : Nat := if q ∈ c.ppTwice then 2 else 1

/-! ### The phases (R135 to R137, R140) -/

/-- A phase as the three tables it is written in have it: the pattern of the BW row, of the WB row, and the durations
and repeat they share with the VCOM row, whose pattern is null (R140). -/
structure Phase where
  bw  : Nat
  wb  : Nat
  d0  : Nat
  d1  : Nat
  rep : Nat
deriving DecidableEq, Repr

/-- The row of a phase with a pattern. -/
def Phase.row (f : Phase) (pat : Nat) : RowArgs := ⟨pat, f.d0, f.d1, 0, 0, f.rep⟩

/-- Settle phase (R135). -/
def settlePhase (c : Config) (q : Nat) : Phase :=
  { bw := c.polarity.black.toNat <<< 6, wb := c.polarity.white.toNat <<< 6, d0 := period c q, d1 := 0,
    rep := Config.settleRepeat }

/-- Ping-pong phase (R136). -/
def pingpongPhase (c : Config) (q : Nat) : Phase :=
  { bw := (c.polarity.black.toNat <<< 6) ||| (c.polarity.white.toNat <<< 4),
    wb := (c.polarity.white.toNat <<< 6) ||| (c.polarity.black.toNat <<< 4),
    d0 := halfPeriod c q, d1 := halfPeriod c q, rep := ppRepeat c q }

/-- Settle-to-target phase (R137). -/
def finalPhase (c : Config) (q : Nat) (fr : Bool) : Phase :=
  { bw := c.polarity.white.toNat <<< 6, wb := c.polarity.black.toNat <<< 6, d0 := period c q, d1 := 0,
    rep := finalRepeat c q fr }

/-- The phases a synthesis includes, in row order (R133, R138). -/
def phases (c : Config) (q : Nat) (fr : Bool) : List Phase :=
  (if hasSettle c q then [settlePhase c q] else []) ++ (if hasPingpong c q fr then [pingpongPhase c q] else []) ++
    [finalPhase c q fr]

/-! ### The synthesizer -/

/-- `SYNTHESIZE(s, fr)`: no tables at speed 0 (R142), else the five tables (R138 to R141). An error is one that
SET_LUT_ROW raises. -/
def synthesize (c : Config) (q : Nat) (fr : Bool) : Except Cause (Option Tables) :=
  if q = 0 then .ok none
  else do
    let fs := phases c q fr
    let bw ← setRows (zeros 42) 0 (fs.map fun f => f.row f.bw)
    let wb ← setRows (zeros 42) 0 (fs.map fun f => f.row f.wb)
    let vcom ← setRows (zeros 44) 0 (fs.map fun f => f.row 0)
    return some { vcom := vcom, ww := if fr then zeros 42 else bw, wb := wb, bb := if fr then zeros 42 else wb,
                  bw := bw }

/-- `FRAMES(s, fr)` (R146). -/
def refreshFrames (c : Config) (q : Nat) (fr : Bool) : Nat :=
  (if hasSettle c q then period c q * Config.settleRepeat else 0) +
    (if hasPingpong c q fr then 2 * halfPeriod c q * ppRepeat c q else 0) + period c q * finalRepeat c q fr

/-- The frames a table takes (R100). -/
def tableFrames (t : List Byte) : Nat :=
  ((List.range 7).map fun r =>
    match getLutRow t r with
    | [_, d0, d1, d2, d3, rep] => rep.toNat * (d0.toNat + d1.toNat + d2.toNat + d3.toNat)
    | _ => 0).sum

end Sys2Proof.Machine
end

