-- ==== Sys2Proof/Machine/Grey.lean ====
section
/-!
DEFINITION. The greyscale multiplexer's primitives (spec/42_greyscale_multiplexer.md).
-/
namespace Sys2Proof.Machine

/-- `NORMALIZE(l, G)` (R221). -/
def normalizeLevel (l : Byte) (g : Nat) : Nat := (2 * (255 - l.toNat) * (g - 1) + 255) / 510

/-- The levels of an image (R221, R231 part 1). -/
def levelsOf (lum : List Byte) (g : Nat) : List Byte := lum.map fun l => BitVec.ofNat 8 (normalizeLevel l g)

/-- The class of a level in the pass with base level g (R223). -/
def greyClass (g : Nat) (level : Byte) : Lane :=
  if level.toNat = g + 1 then .ww
  else if level.toNat = g + 2 then .bb
  else if level.toNat = g + 3 then .wb
  else .bw

/-- The bit of a class in MASK_OLD: the previous value (R223). -/
def oldBit : Lane → Bool
  | .bb => true
  | .bw => true
  | _ => false

/-- The bit of a class in MASK_NEW: the new value (R223). -/
def newBit : Lane → Bool
  | .bb => true
  | .wb => true
  | _ => false

/-- Eight pixels to a byte, the first in the most significant bit (R224, spec/20_memory.md R62). A buffer has WIDTH*HEIGHT/8
bytes (R61), so pixels short of a byte, which no supported panel has (R63), make none. -/
def packBits : List Bool → List Byte
  | b0 :: b1 :: b2 :: b3 :: b4 :: b5 :: b6 :: b7 :: rest =>
    (BitVec.ofBool b0 ++ BitVec.ofBool b1 ++ BitVec.ofBool b2 ++ BitVec.ofBool b3 ++ BitVec.ofBool b4 ++
      BitVec.ofBool b5 ++ BitVec.ofBool b6 ++ BitVec.ofBool b7) :: packBits rest
  | _ => []

/-- `MASK_OLD` of a pass (R223). -/
def maskOldOf (g : Nat) (levels : List Byte) : List Byte := packBits (levels.map fun l => oldBit (greyClass g l))

/-- `MASK_NEW` of a pass (R223). -/
def maskNewOf (g : Nat) (levels : List Byte) : List Byte := packBits (levels.map fun l => newBit (greyClass g l))

/-- `ANY` of a pass: some pixel has level g+1, g+2 or g+3 (R225). -/
def anyOf (g : Nat) (levels : List Byte) : Bool := levels.any fun l => greyClass g l != .bw

/-- `STEP` (R226). -/
def greyStep (c : Config) (g : Nat) : Nat := c.framesToBlack / g

/-- `GREY_TABLES(N1, N2, N3)` (R227). -/
def greyTablesOf (c : Config) (n1 n2 n3 : Byte) : Except Cause Tables := do
  let k := c.polarity.black.toNat <<< 6
  let ww ← setLutRow (zeros 42) 0 ⟨k, n1.toNat, 0, 0, 0, 1⟩
  let bb ← setLutRow (zeros 42) 0 ⟨k, n2.toNat, 0, 0, 0, 1⟩
  let wb ← setLutRow (zeros 42) 0 ⟨k, n3.toNat, 0, 0, 0, 1⟩
  let vcom ← setLutRow (zeros 44) 0 ⟨0, n3.toNat, 0, 0, 0, 1⟩
  return { vcom := vcom, ww := ww, wb := wb, bb := bb, bw := zeros 42 }

/-- `gmax`, the base level of the last pass, for G ≥ 2 (R231). -/
def greyLastBase (g : Nat) : Nat := 3 * ((g - 2) / 3)

end Sys2Proof.Machine
end

