-- ==== Sys2Proof/Machine/Script.lean ====
section
/-!
DEFINITION. The scripts of the host operations (spec/41_refresh_sequencer.md R174 to R188,
spec/42_greyscale_multiplexer.md R228, R231) and what each of their actions does. A `send` is the bus instruction its
bytes decode to, run by `step`.
-/
namespace Sys2Proof.Machine

/-! ### Scripts -/

/-- `LOAD_LUTS()`: VCOM, WW, WB, BB, BW (spec/40_lut_synthesizer.md R143). -/
def loadLuts : List Action :=
  [.send .lutVcom (.table .vcom), .send .lutWw (.table .ww), .send .lutWb (.table .wb), .send .lutBb (.table .bb),
   .send .lutBw (.table .bw)]

/-- `APPLY_TABLES()`: nothing at speed 0 (R177). -/
def applyTables (c : Config) (speed : Nat) : List Action := if speedOne c ≤ speed then .synth :: loadLuts else []

/-- `HW_RESET()` (R174). -/
def hwReset : List Action := [.resetPin false, .resetPin true, .waitReady]

/-- INIT after its checks and the latching of the configuration (R175, spec/70_reset_and_hazards.md R302). -/
def initScript (c : Config) (speed : Nat) : List Action :=
  hwReset ++ [.send .panelConfig .psr] ++ c.initRegs.map (fun e => .send (.raw e.1) (.bytes e.2)) ++
    applyTables c speed ++ [.clearCount, .setSeq .idle, .setInited, .ret true]

/-- SET_SPEED after its check and the writes of SPEED and FR (R176). -/
def setSpeedScript (c : Config) (speed : Nat) : List Action :=
  [.send .panelConfig .psr] ++ applyTables c speed ++ [.clearCount, .ret true]

/-- Wait, then power off: the blocking tail (R185), the end of a pass (R228), WAIT_OFF (R188). -/
def powerOffTail : List Action :=
  [.waitReady, .setSeq .poweredOn, .setSeq .poweringOff, .send .powerOff (.bytes []), .setSeq .idle]

/-- An accepted UPDATE: the injection load (R181), the transfer (R182), the restore (R183), the counter (R184), the
blocking tail (R185) or none (R186). -/
def updateScript (inj blocking : Bool) (buf : Space) : List Action :=
  (if inj then .synthFull :: loadLuts else []) ++
    [.setSeq .powering, .send .powerOn (.bytes []), .setSeq .transferring, .send .partialOut (.bytes []),
     .send .dataCurrent (.buffer buf), .send .dataStop (.bytes []), .send .refresh (.bytes []), .setSeq .refreshing] ++
    (if inj then .synth :: loadLuts else []) ++ [.bumpCount] ++ (if blocking then powerOffTail else []) ++ [.ret true]

/-- `GREY_PASS(g)` (spec/42 R228). -/
def greyPass : List Action :=
  [.setSeq .powering, .send .powerOn (.bytes []), .setSeq .transferring, .send .partialOut (.bytes []),
   .send .dataPrevious (.buffer .maskOld), .send .dataCurrent (.buffer .maskNew), .send .dataStop (.bytes []),
   .greyTables] ++ loadLuts ++ [.send .refresh (.bytes []), .setSeq .refreshing] ++ powerOffTail

/-- GREY_RENDER after its checks: normalise, the passes from g = 0, the restore (R230, R231). -/
def greyScript : List Action := [.normalise, .greyLoop 0, .synth] ++ loadLuts ++ [.ret true]

/-- WAIT_OFF (R188). -/
def waitOffScript : List Action := powerOffTail ++ [.ret true]

/-! ### Actions -/

/-- `SEQ <- q`. -/
def doSetSeq (q : Seq) (s : State) : State := advance { s with ctl := { s.ctl with seq := q } }

/-- `wait_ready()`: one poll (R172). -/
def doWaitReady (s : State) : State := if isBusyNow s then held (afterIsBusy s) else advance (afterIsBusy s)

/-- `reset_pin(level); delay_ms(10)` (R174); the low level resets the chip (spec/70_reset_and_hazards.md R301). -/
def doResetPin (high : Bool) (s : State) : State :=
  let s' : State :=
    { s with log := { s.log with trace := s.log.trace ++ [.resetEdge high 10]
                                 wire := s.log.wire ++ [.resetN high] }
             pins := { s.pins with resetN := high } }
  advance (if high then s' else takeFree 12 { s' with chip := s'.chip.hardReset s.env.free })

/-- The table buffers written by the synthesizer; nothing at speed 0; an error of SET_LUT_ROW is raised (R141, R97). -/
def doSynth (q : Nat) (fr : Bool) (s : State) : State :=
  match synthesize s.cfg q fr with
  | .ok (some t) => advance { s with tabs := t }
  | .ok none => advance s
  | .error c => raise .configuration c s

/-- `LVL[i] <- NORMALIZE(LUM[i], G)` for every pixel (R231). -/
def doNormalise (s : State) : State :=
  let levels := levelsOf (s.mem.lum.readRange 0 s.drv.np) s.grey.g
  advance { s with mem := { s.mem with lvl := Memory.ofBytes 0 levels } }

/-- BUILD_MASKS(g): both masks in full, and ANY (R223 to R225). -/
def buildMasks (g : Nat) (s : State) : State :=
  let levels := s.mem.lvl.readRange 0 s.drv.np
  { s with mem := { s.mem with maskOld := Memory.ofBytes 0 (maskOldOf g levels),
                               maskNew := Memory.ofBytes 0 (maskNewOf g levels) }
           ctl := { s.ctl with any := anyOf g levels } }

/-- The frame counts of a pass (R226). -/
def setCounts (g : Nat) (s : State) : State :=
  let k := greyStep s.cfg s.grey.g
  { s with grey := { s.grey with n1 := BitVec.ofNat 8 (k * (g + 1)), n2 := BitVec.ofNat 8 (k * (g + 2)),
                                 n3 := BitVec.ofNat 8 (k * (g + 3)) } }

/-- The head of the pass loop: while g ≤ G - 2, the masks of pass g; a pass that matches a pixel is performed, one that
does not is skipped whole (R222, R229, R231). -/
def doGreyLoop (g : Nat) (s : State) : State :=
  if g + 2 ≤ s.grey.g then
    let s1 := buildMasks g { s with grey := { s.grey with gbase := g } }
    let s2 := if s1.ctl.any then setCounts g s1 else s1
    let more := (if s1.ctl.any then greyPass else []) ++ [.greyLoop (g + 3)]
    let s3 := advance s2
    { s3 with ctl := { s3.ctl with todo := more ++ s3.ctl.todo } }
  else advance s

/-- `GREY_TABLES(N1, N2, N3)` (R227). -/
def doGreyTables (s : State) : State :=
  match greyTablesOf s.cfg s.grey.n1 s.grey.n2 s.grey.n3 with
  | .ok t => advance { s with tabs := t }
  | .error c => raise .configuration c s

/-- `UPDATE_COUNT <- n`. -/
def doCount (n : Nat) (s : State) : State := advance { s with drv := { s.drv with updateCount := n } }

/-- `INITED <- 1`; the transient flags INJ and ANY are 0 after a successful INIT (spec/70_reset_and_hazards.md R300). -/
def doSetInited (s : State) : State :=
  advance { s with ctl := { s.ctl with inited := true, inj := false, any := false } }

/-- An action that is no `send`. -/
def perform (a : Action) (s : State) : State :=
  match a with
  | .setSeq q => doSetSeq q s
  | .send _ _ => s
  | .waitReady => doWaitReady s
  | .resetPin high => doResetPin high s
  | .synth => doSynth s.drv.speed s.drv.fr s
  | .synthFull => doSynth s.cfg.fullSpeed false s
  | .normalise => doNormalise s
  | .greyLoop g => doGreyLoop g s
  | .greyTables => doGreyTables s
  | .clearCount => doCount 0 s
  | .bumpCount => doCount (s.drv.updateCount + 1) s
  | .setInited => doSetInited s
  | .ret v => ret v s

/-! ### Fetching -/

/-- The bytes of the transaction a `send` makes: opcode byte and data (R108); an error of BUILD_PSR is a cause. -/
def sendBytes (s : State) (c : Cmd) (d : Payload) : Except Cause (List Byte) :=
  match payload s d with
  | .ok data => .ok (s.cfg.opc.byteOf c :: data)
  | .error e => .error e

/-- While a refresh runs, whether this step is the engine's: the next turn the environment has fixed, else a free draw
(log 4). -/
def engineTurn (s : State) : Bool :=
  s.chip.engine.active &&
    match s.env.turnFeed with
    | b :: _ => b
    | [] => Config.turnDraw s.env.moment

/-- A step is taken: the next sample and the next poll have levels of their own (log 3), and a turn of the refresh is used
up. -/
def turned (s : State) : State :=
  { s with env := { s.env with busyFeed := s.env.busyFeed.tail
                               pollFeed := s.env.pollFeed.tail
                               turnFeed := if s.chip.engine.active then s.env.turnFeed.tail else s.env.turnFeed
                               moment := s.env.moment + 1 } }

/-- The host's next access is taken. -/
def hostTaken (s : State) : State := { s with env := { s.env with hostIn := s.env.hostIn.tail } }

/-- A write of `CMD`: the code is in the register (R33). -/
def writeCmd (v : Nat) (s : State) : State := { s with regs := { s.regs with cmd := BitVec.ofNat 8 v } }

/-! ### A word placed where the next step fetches -/

/-- A host code: it is the host's next access, and nothing runs. -/
def placeHost (w : Nat) (s : State) : State :=
  { s with env := { s.env with hostIn := .write 0 w :: s.env.hostIn }
           ctl := { s.ctl with todo := [], running := false }
           chip := { s.chip with engine := { s.chip.engine with active := false } } }

/-- A transaction: it is the next action of the script, and the chip is ready now and at the gate's sample. -/
def placeBus (bytes : List Byte) (s : State) : State :=
  { s with env := { s.env with busyFeed := false :: false :: s.env.busyFeed.tail }
           ctl := { s.ctl with todo := .send (.raw (bytes.headD 0)) (.bytes bytes.tail) :: s.ctl.todo }
           chip := { s.chip with engine := { s.chip.engine with active := false } } }

/-- A phase row: it is row 0 of the table of its lane in a refresh with programmed tables that has just started, and the
engine's turn. -/
def placeRow (l : Lane) (bytes : List Byte) (s : State) : State :=
  { s with env := { s.env with turnFeed := true :: s.env.turnFeed }
           chip := { s.chip with engine :=
                       { s.chip.engine with active := true, lane := l, row := 0, src := .known .programmed, disturbed := none,
                                            tables := s.chip.engine.tables.modify l (.known (bytes ++ zeros 36)) } } }

/-- A word of spec/opcode_table.json placed at its port. -/
def placeWord (nbits w : Nat) (s : State) : State :=
  match portOfWord s.drv.nb nbits w with
  | .host => placeHost w s
  | .bus _ => placeBus (bytesOfWord s.drv.nb nbits w) s
  | .row l => placeRow l (bytesOfWord s.drv.nb nbits w) s

end Sys2Proof.Machine
end

