-- ==== Sys2Proof/Machine/HostOps.lean ====
section
/-!
DEFINITION. The meanings of the host operations (spec/30_encoding.md R105): acceptance, the checks in the order of
spec/60_exceptions.md R268, the writes before the first action, and the script the block then performs one action a step
(spec/10_state.md R29). An operation whose script is one sample or none returns at once.
-/
namespace Sys2Proof.Machine

/-- The configuration latched by INIT (R175). -/
def latchConfig (s : State) : State :=
  { s with drv := { s.drv with
      width := s.regs.cfgWidth.toNat, height := s.regs.cfgHeight.toNat,
      mirrorX := s.regs.cfgFlags.getLsbD 0, mirrorY := s.regs.cfgFlags.getLsbD 1,
      hasBusy := s.regs.cfgFlags.getLsbD 2,
      fullPeriod := s.regs.cfgFullPeriod.toNat, speed := s.regs.argSpeed, fr := s.regs.aFr } }

/-- INIT (R175): resolution, then speed, then the sequence of R302. -/
def execInit (s : State) : Out :=
  .next <| hostOp .init (fun s =>
    if !resolutionOk s.cfg s.regs.cfgWidth.toNat s.regs.cfgHeight.toNat then raise .configuration .resolution s
    else if !speedOk s.cfg s.regs.argSpeed then raise .configuration .speed s
    else start (initScript s.cfg s.regs.argSpeed) (latchConfig s)) s

/-- The registers SET_SPEED writes before its first transaction (R176, spec/92 D15). -/
def latchSpeed (s : State) : State :=
  { s with drv := { s.drv with
      speed := s.regs.argSpeed, fr := if s.regs.aFrValid then s.regs.aFr else s.drv.fr } }

/-- SET_SPEED (R176). -/
def execSetSpeed (s : State) : Out :=
  .next <| hostOp .setSpeed (fun s =>
    if !speedOk s.cfg s.regs.argSpeed then raise .configuration .speed s
    else start (setSpeedScript s.cfg s.regs.argSpeed) (latchSpeed s)) s

/-- An UPDATE that is not rejected: INJ, then the script (R178, R180). -/
def beginUpdate (s : State) : State :=
  start (updateScript (injects s) s.regs.aBlocking s.regs.buffer) { s with ctl := { s.ctl with inj := injects s } }

/-- UPDATE (R178): a non-blocking one takes one sample and is "not started" when it says busy (R179). -/
def execUpdate (s : State) : Out :=
  .next <| hostOp .update (fun s =>
    if s.regs.aBlocking then beginUpdate s
    else if isBusyNow s then ret false (afterIsBusy s)
    else beginUpdate (afterIsBusy s)) s

/-- GREY_RENDER (spec/42_greyscale_multiplexer.md R231, R232): grey levels, speed 0, duration. -/
def execGreyRender (s : State) : Out :=
  .next <| hostOp .greyRender (fun s =>
    let g := s.regs.argG.toNat
    if g < 1 ∨ Config.gMax < g then raise .configuration .greyLevels s
    else if greyStep s.cfg g = 0 then raise .configuration .greyLevels s
    else if s.drv.speed = 0 then raise .unspecified .greyAtSpeedZero s
    else if 2 ≤ g ∧ 255 < greyStep s.cfg g * (greyLastBase g + 3) then raise .configuration .duration s
    else start greyScript { s with grey := { s.grey with g := g } }) s

/-- FADE_OUT: Unspecified cause 1, no bus traffic, no other change (R192). -/
def execFadeOut (s : State) : Out := .next <| hostOp .fadeOut (fun s => raise .unspecified .fadeOut s) s

/-- WAIT_OFF (R188). -/
def execWaitOff (s : State) : Out := .next <| hostOp .waitOff (fun s => start waitOffScript s) s

/-- IS_BUSY: one sample, its value the result (R189). -/
def execIsBusy (s : State) : Out := .next <| hostOp .isBusy (fun s => ret (isBusyNow s) (afterIsBusy s)) s

/-- HOST_RESERVED: ConfigurationError cause 4, before the INITED check (R107, R268). -/
def execHostReserved (_code : Byte) (s : State) : Out :=
  .next (if s.ctl.running then s else raise .configuration .reservedOp (accept none s))

end Sys2Proof.Machine
end

