-- ==== Sys2Proof/Machine/Rows.lean ====
section
/-!
DEFINITION. The meanings of the phase rows: the chip's engine runs the row on the lane it is at (spec/30_encoding.md
R100). The row shapes the block builds are runs of the codes and durations their rule gives.
-/
namespace Sys2Proof.Machine

/-- PHASE_ROW (R91, R100). -/
def execPhaseRow (c0 c1 c2 c3 : Code) (d0 d1 d2 d3 rep : Byte) (s : State) : Out :=
  .next (runRow ⟨c0, c1, c2, c3, d0, d1, d2, d3, rep⟩ s)

/-- UNUSED_ROW: skipped, whatever its other five bytes are (R95, R100). -/
def execUnusedRow (_c0 _c1 _c2 _c3 : Code) (_d0 _d1 _d2 _d3 : Byte) (s : State) : Out := .next (skipRow s)

/-- SETTLE_ROW_BW: CODE_BLACK for p frames (spec/40_lut_synthesizer.md R135). -/
def execSettleRowBw (p rep : Byte) (s : State) : Out :=
  .next (runRow ⟨s.cfg.polarity.black, 0, 0, 0, p, 0, 0, 0, rep⟩ s)

/-- PINGPONG_ROW_BW: CODE_BLACK then CODE_WHITE, hp frames each (R136). -/
def execPingpongRowBw (q rep : Byte) (s : State) : Out :=
  .next (runRow ⟨s.cfg.polarity.black, s.cfg.polarity.white, 0, 0, q, q, 0, 0, rep⟩ s)

/-- FINAL_ROW_BW: CODE_WHITE for p frames (R137). -/
def execFinalRowBw (p rep : Byte) (s : State) : Out :=
  .next (runRow ⟨s.cfg.polarity.white, 0, 0, 0, p, 0, 0, 0, rep⟩ s)

/-- GREY_ROW: CODE_BLACK for n frames, once (spec/42_greyscale_multiplexer.md R227). -/
def execGreyRow (n : Byte) (s : State) : Out :=
  .next (runRow ⟨s.cfg.polarity.black, 0, 0, 0, n, 0, 0, 0, 1⟩ s)

end Sys2Proof.Machine
end

