-- ==== Sys2Proof/Machine/Dispatch.lean ====
section
/-!
DEFINITION. One arm per instruction, one meaning per arm.
-/
namespace Sys2Proof.Machine

def exec (i : Instr) (s : State) : Host.Outcome State Fault Refusal :=
  match i with
  | .phaseRow c0 c1 c2 c3 d0 d1 d2 d3 rep => Sys2Proof.Machine.execPhaseRow c0 c1 c2 c3 d0 d1 d2 d3 rep s
  | .unusedRow c0 c1 c2 c3 d0 d1 d2 d3 => Sys2Proof.Machine.execUnusedRow c0 c1 c2 c3 d0 d1 d2 d3 s
  | .settleRowBw p rep => Sys2Proof.Machine.execSettleRowBw p rep s
  | .pingpongRowBw q rep => Sys2Proof.Machine.execPingpongRowBw q rep s
  | .finalRowBw p rep => Sys2Proof.Machine.execFinalRowBw p rep s
  | .greyRow n => Sys2Proof.Machine.execGreyRow n s
  | .init => Sys2Proof.Machine.execInit s
  | .setSpeed => Sys2Proof.Machine.execSetSpeed s
  | .update => Sys2Proof.Machine.execUpdate s
  | .greyRender => Sys2Proof.Machine.execGreyRender s
  | .fadeOut => Sys2Proof.Machine.execFadeOut s
  | .waitOff => Sys2Proof.Machine.execWaitOff s
  | .isBusy => Sys2Proof.Machine.execIsBusy s
  | .hostReserved code => Sys2Proof.Machine.execHostReserved code s
  | .cmdPanelConfig psr => Sys2Proof.Machine.execCmdPanelConfig psr s
  | .cmdPowerOff => Sys2Proof.Machine.execCmdPowerOff s
  | .cmdPowerOn => Sys2Proof.Machine.execCmdPowerOn s
  | .cmdDataPrevious data => Sys2Proof.Machine.execCmdDataPrevious data s
  | .cmdDataStop => Sys2Proof.Machine.execCmdDataStop s
  | .cmdRefresh => Sys2Proof.Machine.execCmdRefresh s
  | .cmdDataCurrent data => Sys2Proof.Machine.execCmdDataCurrent data s
  | .cmdLutVcom data => Sys2Proof.Machine.execCmdLutVcom data s
  | .cmdLutWw data => Sys2Proof.Machine.execCmdLutWw data s
  | .cmdLutBw data => Sys2Proof.Machine.execCmdLutBw data s
  | .cmdLutWb data => Sys2Proof.Machine.execCmdLutWb data s
  | .cmdLutBb data => Sys2Proof.Machine.execCmdLutBb data s
  | .cmdPartialOut => Sys2Proof.Machine.execCmdPartialOut s
  | .cmdRaw o data => Sys2Proof.Machine.execCmdRaw o data s

end Sys2Proof.Machine
end

