-- ==== Sys2Proof/Machine/Step.lean ====
section
/-!
DEFINITION. One step: one phase row of a running refresh, or the next action of the block's script, or, when nothing
runs, the host's next access (log 4, log 6).
-/
namespace Sys2Proof.Machine

/-- The instruction the bytes decode to is run; bytes the decoder rejects stop by name. -/
def runBytes (p : Port) (bytes : List Byte) (s : State) : Host.Outcome State Fault Refusal :=
  match decode s.cfg p bytes with
  | .ok i => exec i s
  | .error _ => .refused .undecodable

/-- The block performs an action: a `send` is the bus instruction of its bytes (spec/30_encoding.md R108), an error in
its data is raised (R112); every other action is `perform`. -/
def blockStep (a : Action) (s : State) : Host.Outcome State Fault Refusal :=
  match a with
  | .send c d =>
    match sendBytes s c d with
    | .ok bytes => runBytes (.bus s.drv.nb) bytes s
    | .error e => .next (raise .configuration e s)
  | a => .next (perform a s)

/-- The host's access: a code to CMD is the host instruction of that byte (R104), any other write is storage (R33). -/
def hostStep (h : HostAct) (s : State) : Host.Outcome State Fault Refusal :=
  match h with
  | .write 0 v => runBytes .host [BitVec.ofNat 8 v] (writeCmd v s)
  | .write off v => .next (hostWrite off v s)
  | .fill sp a b => hostFill s sp a b

/-- One step. With nothing to do the block waits for the host. -/
def step (s : State) : Host.Outcome State Fault Refusal :=
  if engineTurn s then runBytes (.row s.chip.engine.lane) s.chip.engine.fetch (turned s)
  else
    match s.ctl.todo with
    | a :: _ => blockStep a (turned s)
    | [] =>
      if s.ctl.running then .next (turned s)
      else
        match s.env.hostIn with
        | h :: _ => hostStep h (hostTaken (turned s))
        | [] => .next (turned s)

/-- The state with a word of spec/opcode_table.json placed where the very next step fetches (log 6). -/
def State.withFetchWord (s : State) (nbits w : Nat) : State := placeWord nbits w s

end Sys2Proof.Machine
end

