-- ==== Sys2Proof/Safety.lean ====
section
/-!
DEFINITION. The terms claims are stated in: the observation (spec/10_state.md R47), the busy gate as a property of the
trace (spec/20_memory.md R73), the pin framing (spec/41_refresh_sequencer.md R173), the shape of the registers, runs of
several steps, and what a completed transaction or row leaves.
-/
namespace Sys2Proof.Machine

/-! ### Observation -/

/-- The bus transactions of a trace, in order (R47). -/
def transactions (l : List Event) : List (Cmd × List Byte) :=
  l.filterMap fun e =>
    match e with
    | .tx _ c d => some (c, d)
    | _ => none

/-- What a run shows to the outside (R47): the trace without the gate's samples, what every host operation came to, and
the registers of R21 to R32. -/
structure Observation where
  trace   : List Event
  results : List OpResult
  drv     : Driver
  seq     : Seq
  op      : Option HostOp
  pos     : Nat
  running : Bool
  result  : Bool
  err     : ErrClass
  cause   : Cause
  inited  : Bool
  inj     : Bool
  any     : Bool
  tabs    : Tables
  grey    : Grey
deriving DecidableEq, Repr

/-- The observation of a state (R47). -/
def observe (s : State) : Observation :=
  { trace := s.log.trace.filter fun e =>
      match e with
      | .sample _ => false
      | _ => true
    results := s.log.results, drv := s.drv, seq := s.ctl.seq, op := s.ctl.op, pos := s.ctl.pos,
    running := s.ctl.running, result := s.ctl.result, err := s.ctl.err, cause := s.ctl.cause, inited := s.ctl.inited,
    inj := s.ctl.inj, any := s.ctl.any, tabs := s.tabs, grey := s.grey }

/-! ### The busy gate -/

/-- Every transaction made with a busy wire comes directly after a sample that said not busy; `ok` says whether the entry
before the list is such a sample (R73). -/
def gatedFrom : Bool → List Event → Bool
  | _, [] => true
  | _, .sample b :: l => gatedFrom (!b) l
  | ok, .tx g _ _ :: l => (!g || ok) && gatedFrom false l
  | _, .resetEdge _ _ :: l => gatedFrom false l

/-- The busy-gate property of a trace (R73, R193). -/
def gated (l : List Event) : Bool := gatedFrom false l

/-! ### Pin framing -/

/-- Where the pins are between two pin actions (R173). -/
inductive Wire where
  /-- CS released; the level of RESET_N. -/
  | idle (resetN : Bool)
  /-- CS asserted, RESET_N high, nothing written. -/
  | opened
  /-- DC low, the opcode byte not written yet. -/
  | command
  /-- The opcode byte written. -/
  | sent
  /-- DC high for data bytes. -/
  | data
deriving DecidableEq, Repr

/-- One pin action; `none` for one the framing forbids: a byte outside an assertion of CS, an opcode byte without DC low,
a data byte without DC high, RESET_N low or moved inside a transaction (R173). -/
def Wire.next : Wire → PinEvent → Option Wire
  | .idle _, .resetN high => some (.idle high)
  | .idle true, .csAssert => some .opened
  | .opened, .dc false => some .command
  | .command, .byte _ => some .sent
  | .sent, .dc true => some .data
  | .data, .byte _ => some .data
  | .sent, .csRelease => some (.idle true)
  | .data, .csRelease => some (.idle true)
  | _, _ => none

/-- Where the pin actions since block reset have left the pins; `none` when the framing was broken. -/
def wireAfter (l : List PinEvent) : Option Wire := l.foldl (fun w e => w.bind (·.next e)) (some (.idle true))

/-- The rest of a script moves RESET_N as HW_RESET does: after a low level the next action is the high one, and the
script ends with it high (R174). -/
def resetPaired : Bool → List Action → Bool
  | high, [] => high
  | false, .resetPin true :: l => resetPaired true l
  | false, _ :: _ => false
  | true, .resetPin high :: l => resetPaired high l
  | true, _ :: l => resetPaired true l

/-- The pin actions so far are framed, the pins are as they left them, and no transaction comes while RESET_N is low
(R173, R174). -/
def pinsOk (s : State) : Bool :=
  wireAfter s.log.wire == some (.idle s.pins.resetN) && !s.pins.cs && resetPaired s.pins.resetN s.ctl.todo

/-! ### Shape of the registers -/

/-- Reserved bits read 0 and widths are kept (R33, R35), CS is released between transactions (R37). -/
def registersOk (s : State) : Bool :=
  decide (s.regs.argSpeed < 2 ^ (3 + s.cfg.fracBits)) && s.regs.argFlags &&& 0xF0 == 0 && s.regs.cfgFlags &&& 0xF8 == 0 &&
    speedOk s.cfg s.drv.speed && !s.pins.cs

/-- The five table buffers have their lengths (R31). -/
def Tables.sized (t : Tables) : Bool :=
  t.vcom.length == 44 && t.ww.length == 42 && t.wb.length == 42 && t.bb.length == 42 && t.bw.length == 42

/-! ### Runs and frames -/

/-- `n` steps from s lead to t. -/
def Runs (n : Nat) (s t : State) : Prop := Host.Core.run Sys2Proof.core n s = .next t

/-- No refresh is in progress, and the block's next `k` steps, this one first, sample a busy line that says not busy
(log 3). -/
def Quiet (k : Nat) (s : State) : Prop :=
  s.chip.engine.active = false ∧ s.env.busyFeed.take k = List.replicate k false

/-- Every byte of every memory space reads as before. -/
def SameMemory (s t : State) : Prop := ∀ (sp : Space) (a : Nat), (t.mem.get sp).read a = (s.mem.get sp).read a

/-- The block's registers other than the sequencer and flags are as before, and so is every byte of memory. -/
def SameBlock (s t : State) : Prop :=
  t.cfg = s.cfg ∧ t.regs = s.regs ∧ t.drv = s.drv ∧ t.tabs = s.tabs ∧ t.grey = s.grey ∧ SameMemory s t

/-- Only the latches RUNNING, RESULT, ERR, CAUSE and the position in a script may have changed, and what operation `op`
came to is noted (R264, R277, R47 (b)). -/
def OnlyLatches (s t : State) (op : Option HostOp) : Prop :=
  SameBlock s t ∧ t.ctl.seq = s.ctl.seq ∧ t.ctl.inited = s.ctl.inited ∧ t.ctl.inj = s.ctl.inj ∧ t.ctl.any = s.ctl.any ∧
    t.pins = s.pins ∧ t.chip = s.chip ∧ t.env = s.env ∧
    t.log = { s.log with results := s.log.results ++ [⟨op, t.ctl.result, t.ctl.err, t.ctl.cause⟩] }

/-- The latches after `raise E(cause)`: the operation has ended (R264). -/
def Raised (e : ErrClass) (c : Cause) (t : State) : Prop :=
  t.ctl.err = e ∧ t.ctl.cause = c ∧ t.ctl.result = false ∧ t.ctl.running = false ∧ t.ctl.op = none ∧ t.ctl.todo = []

/-- The block is held where it is by a busy poll, which is noted; nothing goes out (R29, R172). -/
def HeldAt (s t : State) : Prop :=
  t.ctl = { s.ctl with polls := s.ctl.polls + 1 } ∧ t.log = { s.log with trace := s.log.trace ++ [.sample true] } ∧
    t.pins = s.pins ∧ t.chip = s.chip ∧ t.env = s.env ∧ SameBlock s t

/-- A busy poll has ended the operation with HardwareTimeout: nothing goes out, SEQ keeps its value (R172, R262, R264). -/
def TimedOut (s t : State) : Prop :=
  Raised .timeout .none t ∧ t.ctl.seq = s.ctl.seq ∧ t.ctl.inited = s.ctl.inited ∧ t.ctl.inj = s.ctl.inj ∧
    t.ctl.any = s.ctl.any ∧
    t.log = { s.log with trace := s.log.trace ++ [.sample true]
                         results := s.log.results ++ [⟨s.ctl.op, false, .timeout, .none⟩] } ∧
    t.pins = s.pins ∧ t.chip = s.chip ∧ t.env = s.env ∧ SameBlock s t

/-- `wait_ready` is over: the block is at the next action, with the sample noted that said not busy, if there is a busy
wire (R172). -/
def WaitedOn (s t : State) : Prop :=
  t.ctl = s.ctl.next ∧
    t.log = { s.log with trace := s.log.trace ++ if s.drv.hasBusy then [.sample false] else [] } ∧
    t.pins = s.pins ∧ t.chip = s.chip ∧ t.env = s.env ∧ SameBlock s t

/-- One transaction went out: trace, pins and position moved on, everything of the block that no rule changes kept
(R170, R173, R29). -/
def Transacted (s t : State) (c : Cmd) (data : List Byte) : Prop :=
  t.log = { s.log with
    trace := s.log.trace ++ (if s.drv.hasBusy then [.sample false] else []) ++ [.tx s.drv.hasBusy c data]
    wire := s.log.wire ++ pinFrame (s.cfg.opc.byteOf c) data } ∧
  t.pins.cs = false ∧ t.pins.resetN = s.pins.resetN ∧
  t.ctl = s.ctl.next ∧
  t.env = { s.env with free := t.env.free } ∧ SameBlock s t

/-- The engine ran a row on its lane with these holds, and has now met unused rows on the lanes `gap`. Nothing else of the
machine changed but the engine's place, the two image slots where the refresh ends there, and the numbering of free
values (R100). -/
def RowRan (s t : State) (holds : List Hold) (gap : List Lane) : Prop :=
  t.chip.engine = { s.chip.engine with
    waves := s.chip.engine.waves.push s.chip.engine.lane holds
    gap := gap, lane := t.chip.engine.lane, row := t.chip.engine.row, active := t.chip.engine.active } ∧
  t.chip = { s.chip with engine := t.chip.engine, prev := t.chip.prev, cur := t.chip.cur } ∧
  (s.chip.engine.atEnd = false → t.chip.prev = s.chip.prev ∧ t.chip.cur = s.chip.cur) ∧
  t.chip.prev.last = s.chip.prev.last ∧ t.chip.cur.last = s.chip.cur.last ∧
  SameBlock s t ∧ t.ctl = s.ctl ∧ t.pins = s.pins ∧ t.log = s.log ∧ t.env = { s.env with free := t.env.free }

/-- The holds a table gives its line: of each of its seven rows in turn, the four codes for their frames, REP times
(R90, R92, R100). -/
def tableHolds (t : List Byte) : List Hold :=
  (List.range 7).flatMap fun r =>
    match getLutRow t r with
    | [pat, d0, d1, d2, d3, rep] =>
      (List.replicate rep.toNat
        [⟨patCode pat 0, d0⟩, ⟨patCode pat 1, d1⟩, ⟨patCode pat 2, d2⟩, (⟨patCode pat 3, d3⟩ : Hold)]).flatten
    | _ => []

/-- No used row of a table stands after an unused one (R101). -/
def UsedRowsFirst (t : List Byte) : Prop :=
  ∀ r, r + 1 < 7 → t[6 * r + 5]?.getD 0 = 0 → t[6 * (r + 1) + 5]?.getD 0 = 0

/-- Where the engine is after a row: next lane, next row, or the end of the refresh with both image slots free (R100,
spec/93 U8). -/
def RowAdvanced (s t : State) : Prop :=
  match nextLane s.chip.engine.lane with
  | some l => t.chip.engine.lane = l ∧ t.chip.engine.row = s.chip.engine.row ∧
      t.chip.engine.active = s.chip.engine.active
  | none =>
    if s.chip.engine.row < 6 then
      t.chip.engine.lane = .vcom ∧ t.chip.engine.row = s.chip.engine.row + 1 ∧
        t.chip.engine.active = s.chip.engine.active
    else t.chip.engine.active = false ∧ t.chip.prev.loose.isSome ∧ t.chip.cur.loose.isSome

end Sys2Proof.Machine
end

