-- ==== Sys2Proof/WellFormed.lean ====
section
/-!
DEFINITION. Which instructions are well formed at a port, and which parameters are (spec/00_scope.md R7). Every operand
of a well-formed instruction is one the encoding admits, and its shape is the most specific the encoding has (log 5).
-/
namespace Sys2Proof

/-- The operand values of a row that another constructor of the same lane stands for. -/
def specialRow (pol : Polarity) (l : Lane) (c0 c1 c2 c3 : Code) (d0 d1 d2 d3 rep : Byte) : Bool :=
  rep == 0 ||
  match l with
  | .bw =>
    (c0 == pol.black && c1 == 0 && c2 == 0 && c3 == 0 && d1 == 0 && d2 == 0 && d3 == 0) ||
    (c0 == pol.black && c1 == pol.white && c2 == 0 && c3 == 0 && d1 == d0 && d2 == 0 && d3 == 0) ||
    (c0 == pol.white && c1 == 0 && c2 == 0 && c3 == 0 && d1 == 0 && d2 == 0 && d3 == 0)
  | .vcom => false
  | _ => c0 == pol.black && c1 == 0 && c2 == 0 && c3 == 0 && d1 == 0 && d2 == 0 && d3 == 0 && rep == 1

/-- The port is the bus, whatever the panel. -/
def isBus : Port → Bool
  | .bus _ => true
  | _ => false

/-- The check of an instruction at its port; the data of an image command is one pixel buffer of the panel (R110). -/
def wellFormed (c : Config) (p : Port) (i : Instr) : Bool :=
  match i with
  | .phaseRow c0 c1 c2 c3 d0 d1 d2 d3 rep =>
    match p with
    | .row l => !specialRow c.polarity l c0 c1 c2 c3 d0 d1 d2 d3 rep
    | _ => false
  | .unusedRow _ _ _ _ _ _ _ _ => match p with
    | .row _ => true
    | _ => false
  | .settleRowBw _ rep => p == .row .bw && rep != 0
  | .pingpongRowBw _ rep => p == .row .bw && rep != 0
  | .finalRowBw _ rep => p == .row .bw && rep != 0
  | .greyRow _ => p == .row .ww || p == .row .wb || p == .row .bb
  | .init => p == .host
  | .setSpeed => p == .host
  | .update => p == .host
  | .greyRender => p == .host
  | .fadeOut => p == .host
  | .waitOff => p == .host
  | .isBusy => p == .host
  | .hostReserved code => p == .host && (code == 0 || decide (8 ≤ code.toNat))
  | .cmdPanelConfig _ => isBus p
  | .cmdPowerOff => isBus p
  | .cmdPowerOn => isBus p
  | .cmdDataPrevious data => p == .bus data.length
  | .cmdDataStop => isBus p
  | .cmdRefresh => isBus p
  | .cmdDataCurrent data => p == .bus data.length
  | .cmdLutVcom data => isBus p && data.length == 44
  | .cmdLutWw data => isBus p && data.length == 42
  | .cmdLutBw data => isBus p && data.length == 42
  | .cmdLutWb data => isBus p && data.length == 42
  | .cmdLutBb data => isBus p && data.length == 42
  | .cmdPartialOut => isBus p
  | .cmdRaw o data =>
    match p with
    | .bus nb =>
      match c.opc.find o with
      | some k => !k.fits nb data
      | none => true
    | _ => false

/-- `OPC` is injective on the thirteen names (spec/30_encoding.md R111). -/
def Opcodes.wf (o : Opcodes) : Bool := decide ((Cmd.named.map o.byteOf).Nodup)

/-- The requirements the spec puts on the parameters (R7, R111, R112, spec/20_memory.md R63, spec/92 D18). -/
def Config.wf (c : Config) : Bool :=
  c.opc.wf && c.psrSrcBits != 0 && c.supported.length == 4 &&
    c.supported.all (fun r => (r.width * r.height) % 8 == 0) &&
    decide (2 ^ c.fracBits ≤ c.fullSpeed) && decide (c.fullSpeed ≤ 6 * 2 ^ c.fracBits)

end Sys2Proof
end

