-- ==== Sys2Proof/Certificates/Slice0/Obligations.lean ====
section
/-!
DEFINITION. The statements for the provers. Each cites the rule of spec/ it formalises; one that rests on a choice of the
model's says so and names the log entry.
-/

open Sys2Proof Sys2Proof.Machine

/-! ## Encoding -/

/-- Words written out from the field layouts of R91, R92 and R105 and from the presumed opcodes of spec/93 G1 (log 2)
decode to the instructions they stand for, an image command with the two bytes of a panel of 16 pixels (R110). -/
def Obligations.SampleWordsDecode : Prop :=
  decode Config.reference .host [0b00000001] = .ok .init ∧
  decode Config.reference .host [0b00000100] = .ok .greyRender ∧
  decode Config.reference (.bus 4736) [0b00010010] = .ok .cmdRefresh ∧
  decode Config.reference (.bus 4736) [0b00000000, 0b10110011] = .ok (.cmdPanelConfig 0xB3) ∧
  decode Config.reference (.bus 2) [0b00010011, 0xA5, 0x5A] = .ok (.cmdDataCurrent [0xA5, 0x5A]) ∧
  decode Config.reference (.row .bw) [0b01100000, 16, 16, 0, 0, 1] = .ok (.pingpongRowBw 16 1) ∧
  decode Config.reference (.row .vcom) [0b00011011, 1, 2, 3, 4, 5] = .ok (.phaseRow 0 1 2 3 1 2 3 4 5)

/-- Decoding the encoding of a well-formed instruction gives it back, for every opcode map that is injective and every
panel. -/
def Obligations.DecodeAfterEncode : Prop :=
  ∀ (c : Config) (p : Port) (i : Instr), c.opc.wf = true → wellFormed c p i = true → decode c p (encode c i) = .ok i

/-- Bytes that decode to an instruction are its encoding, and the instruction is well formed at the port. -/
def Obligations.EncodeAfterDecode : Prop :=
  ∀ (c : Config) (p : Port) (bytes : List Byte) (i : Instr),
    decode c p bytes = .ok i → encode c i = bytes ∧ wellFormed c p i = true

/-- SET_LUT_ROW: ConfigurationError for a row outside 0..6, then for a value outside 0..255; else six bytes replaced, the
decoder gives the six values back and every other byte is unchanged (R97, R99). -/
def Obligations.SetLutRowWritesOneRow : Prop :=
  ∀ (t : List Byte) (r pat d0 d1 d2 d3 rep : Int), 42 ≤ t.length →
    (r < 0 ∨ 7 ≤ r → setLutRow t r ⟨pat, d0, d1, d2, d3, rep⟩ = .error .rowIndex) ∧
    (0 ≤ r → r < 7 → (∃ v ∈ [pat, d0, d1, d2, d3, rep], v < 0 ∨ 255 < v) →
      setLutRow t r ⟨pat, d0, d1, d2, d3, rep⟩ = .error .duration) ∧
    (0 ≤ r → r < 7 → (∀ v ∈ [pat, d0, d1, d2, d3, rep], 0 ≤ v ∧ v ≤ 255) →
      ∃ u, setLutRow t r ⟨pat, d0, d1, d2, d3, rep⟩ = .ok u ∧ u.length = t.length ∧
        (getLutRow u r.toNat).map (fun b => (b.toNat : Int)) = [pat, d0, d1, d2, d3, rep] ∧
        ∀ j : Nat, (j < 6 * r.toNat ∨ 6 * r.toNat + 6 ≤ j) → u[j]? = t[j]?)

/-! ## Synthesizer -/

/-- PERIOD is the integer root of R148, at least 2 inside the legal range, and 2^(7-q) with F = 0. -/
def Obligations.PeriodIsIntegerRoot : Prop :=
  ∀ (c : Config) (q : Nat), 2 ^ c.fracBits ≤ q → q ≤ 6 * 2 ^ c.fracBits →
    (period c q) ^ (2 ^ c.fracBits) ≤ 2 ^ (7 * 2 ^ c.fracBits - q) ∧
    2 ^ (7 * 2 ^ c.fracBits - q) < (period c q + 1) ^ (2 ^ c.fracBits) ∧
    2 ≤ period c q ∧ period c q ≤ 64 ∧
    (c.fracBits = 0 → period c q = 2 ^ (7 - q))

/-- Speed monotonicity (R144): PERIOD never rises with the speed, halves exactly per unit at integer speeds and within
one frame at fractional ones. -/
def Obligations.PeriodHalvesPerSpeed : Prop :=
  ∀ (c : Config),
    (∀ q q' : Nat, 2 ^ c.fracBits ≤ q → q ≤ q' → q' ≤ 6 * 2 ^ c.fracBits → period c q' ≤ period c q) ∧
    (∀ q : Nat, 2 ^ c.fracBits ≤ q → q + 2 ^ c.fracBits ≤ 6 * 2 ^ c.fracBits →
      2 * period c (q + 2 ^ c.fracBits) ≤ period c q + 2 ∧ period c q ≤ 2 * period c (q + 2 ^ c.fracBits) + 2) ∧
    (c.fracBits = 0 → ∀ q : Nat, 1 ≤ q → q ≤ 5 → 2 * period c (q + 1) = period c q)

/-- The BW, WB and VCOM tables of SYNTHESIZE, byte for byte: settle, ping-pong and final rows from row 0 up, each under
its condition, then zeros (R133 to R138, R140). -/
def Obligations.SynthesizedTableBytes : Prop :=
  ∀ (c : Config) (q : Nat) (fr : Bool), 2 ^ c.fracBits ≤ q → q ≤ 6 * 2 ^ c.fracBits →
    let k := c.polarity.black
    let w := c.polarity.white
    let p : Byte := BitVec.ofNat 8 (period c q)
    let hp : Byte := BitVec.ofNat 8 (period c q / 2)
    let pp : Byte := if q ∈ c.ppTwice then 2 else 1
    let last : Byte := if 4 * 2 ^ c.fracBits ≤ q ∨ fr = true then 2 else 1
    let rows := fun (a b : Code) =>
      (if q < 4 * 2 ^ c.fracBits then rowBytes a 0 0 0 p 0 0 0 1 else []) ++
      (if fr = false ∧ q < c.ppThreshold then rowBytes a b 0 0 hp hp 0 0 pp else []) ++
      rowBytes b 0 0 0 p 0 0 0 last
    ∃ t, synthesize c q fr = .ok (some t) ∧
      t.bw = rows k w ++ zeros (42 - (rows k w).length) ∧
      t.wb = rows w k ++ zeros (42 - (rows w k).length) ∧
      t.vcom = rows 0 0 ++ zeros (44 - (rows 0 0).length)

/-- WW and BB: copies of BW and WB without flicker reduction, zero with it (R139, R145). -/
def Obligations.FlickerSelectsCopiesOrZero : Prop :=
  ∀ (c : Config) (q : Nat) (fr : Bool), 2 ^ c.fracBits ≤ q → q ≤ 6 * 2 ^ c.fracBits →
    ∃ t, synthesize c q fr = .ok (some t) ∧
      (fr = false → t.ww = t.bw ∧ t.bb = t.wb) ∧
      (fr = true → t.ww = zeros 42 ∧ t.bb = zeros 42)

/-- The frames a synthesized table takes are those of the formula of R146, the same for BW, WB and VCOM, and for WW and BB
without flicker reduction. -/
def Obligations.SynthesizedRefreshLength : Prop :=
  ∀ (c : Config) (q : Nat) (fr : Bool) (t : Tables), 2 ^ c.fracBits ≤ q → q ≤ 6 * 2 ^ c.fracBits →
    synthesize c q fr = .ok (some t) →
    let p := period c q
    let hp := period c q / 2
    let frames := (if q < 4 * 2 ^ c.fracBits then p * 1 else 0) +
      (if fr = false ∧ q < c.ppThreshold then 2 * hp * (if q ∈ c.ppTwice then 2 else 1) else 0) +
      p * (if 4 * 2 ^ c.fracBits ≤ q ∨ fr = true then 2 else 1)
    tableFrames t.bw = frames ∧ tableFrames t.wb = frames ∧ tableFrames t.vcom = frames ∧
    tableFrames t.ww = (if fr then 0 else frames) ∧ tableFrames t.bb = (if fr then 0 else frames)

/-- In every synthesized table code 11 never appears, C2, C3, D2, D3 are 0, durations are at most 64 and repeats at most
2 (R147). -/
def Obligations.SynthesizedRowsStayInBounds : Prop :=
  ∀ (c : Config) (q : Nat) (fr : Bool) (t : Tables) (l : Lane) (r : Nat),
    2 ^ c.fracBits ≤ q → q ≤ 6 * 2 ^ c.fracBits → synthesize c q fr = .ok (some t) → r < 7 →
    ∃ pat d0 d1 rep : Byte, getLutRow (t.get l) r = [pat, d0, d1, 0, 0, rep] ∧
      patCode pat 0 ≠ 3 ∧ patCode pat 1 ≠ 3 ∧ patCode pat 2 = 0 ∧ patCode pat 3 = 0 ∧
      d0.toNat ≤ 64 ∧ d1.toNat ≤ 64 ∧ rep.toNat ≤ 2

/-! ## Bus commands -/

/-- Power, partial-out and data-stop commands sent to a chip that is ready (R42, R43, R70, R109, R170). -/
def Obligations.PowerAndModeCommandsComplete : Prop :=
  ∀ s : State, busyLevel s = false →
    (∃ t, exec .cmdPowerOn s = .next t ∧ Transacted s t .powerOn [] ∧
      t.chip = { s.chip with powered := .known true }) ∧
    (∃ t, exec .cmdPowerOff s = .next t ∧ Transacted s t .powerOff [] ∧
      t.chip = { s.chip with powered := .known false }) ∧
    (∃ t, exec .cmdPartialOut s = .next t ∧ Transacted s t .partialOut [] ∧
      t.chip = { s.chip with partialMode := .known false }) ∧
    (∃ t, exec .cmdDataStop s = .next t ∧ Transacted s t .dataStop [] ∧ t.chip = s.chip)

/-- The two image slots are written by the data of their commands (R40, R78). -/
def Obligations.ImageCommandsComplete : Prop :=
  ∀ (s : State) (data : List Byte), busyLevel s = false →
    (∃ t, exec (.cmdDataPrevious data) s = .next t ∧ Transacted s t .dataPrevious data ∧
      t.chip = { s.chip with prev := .known data }) ∧
    (∃ t, exec (.cmdDataCurrent data) s = .next t ∧ Transacted s t .dataCurrent data ∧
      t.chip = { s.chip with cur := .known data })

/-- Each of the five table registers is written whole by the data of its table-load transaction (R41, R70). -/
def Obligations.TableCommandsComplete : Prop :=
  ∀ (s : State) (data : List Byte), busyLevel s = false →
    (∃ t, exec (.cmdLutVcom data) s = .next t ∧ Transacted s t .lutVcom data ∧
      t.chip = { s.chip with tables := { s.chip.tables with vcom := .known data } }) ∧
    (∃ t, exec (.cmdLutWw data) s = .next t ∧ Transacted s t .lutWw data ∧
      t.chip = { s.chip with tables := { s.chip.tables with ww := .known data } }) ∧
    (∃ t, exec (.cmdLutBw data) s = .next t ∧ Transacted s t .lutBw data ∧
      t.chip = { s.chip with tables := { s.chip.tables with bw := .known data } }) ∧
    (∃ t, exec (.cmdLutWb data) s = .next t ∧ Transacted s t .lutWb data ∧
      t.chip = { s.chip with tables := { s.chip.tables with wb := .known data } }) ∧
    (∃ t, exec (.cmdLutBb data) s = .next t ∧ Transacted s t .lutBb data ∧
      t.chip = { s.chip with tables := { s.chip.tables with bb := .known data } })

/-- The refresh command starts a refresh: busy is asserted, and the engine is at row 0 with the tables, selector and
images the chip holds now (R44, R70, R76). That busy is asserted from the command on is DEDUCED (log 3). The model's
choices: the first lane is VCOM (log 4), and a chip that is not powered starts a refresh too (log 21). -/
def Obligations.RefreshCommandStartsRefresh : Prop :=
  ∀ s : State, busyLevel s = false →
    ∃ t, exec .cmdRefresh s = .next t ∧ Transacted s t .refresh [] ∧
      t.chip = { s.chip with engine := t.chip.engine } ∧
      t.chip.engine.active = true ∧ busyLevel t = true ∧ pollLevel t = true ∧ t.chip.engine.lane = .vcom ∧ t.chip.engine.row = 0 ∧
      t.chip.engine.tables = s.chip.tables ∧ t.chip.engine.src = s.chip.lutSrc ∧
      t.chip.engine.prev = s.chip.prev ∧ t.chip.engine.cur = s.chip.cur ∧ t.chip.engine.gap = [] ∧
      ∀ l, t.chip.engine.waves.get l = []

/-- A panel configuration byte reaches the chip and changes nothing but the LUT source there; the byte that BUILD_PSR gives
for a source selects that source (R41, R112). That the chip reads the source from the bits only `PSR_SRC` sets is DEDUCED
(log 17). -/
def Obligations.PanelCommandSelectsSource : Prop :=
  ∀ (s : State) (b : Byte), busyLevel s = false →
    ∃ t, exec (.cmdPanelConfig b) s = .next t ∧ Transacted s t .panelConfig [b] ∧
      t.chip = { s.chip with lutSrc := t.chip.lutSrc } ∧
      (s.cfg.wf = true → ∀ (w h : Nat) (src : LutSrc) (mx my : Bool), buildPsr s.cfg w h src mx my = .ok b →
        t.chip.lutSrc = .known src)

/-- A raw command goes out as it is (R109, R175). With an opcode that is no named one it changes no chip state the spec
names, which is the model's choice (log 15). -/
def Obligations.RawCommandCompletes : Prop :=
  ∀ (s : State) (o : Byte) (data : List Byte), busyLevel s = false →
    ∃ t, exec (.cmdRaw o data) s = .next t ∧ Transacted s t (.raw o) data ∧
      ((∀ k ∈ Cmd.named, s.cfg.opc.byteOf k ≠ o) → t.chip = s.chip)

/-- While the busy line says busy neither a bus command nor `wait_ready` goes on: the block is held where it is and nothing
goes out; `wait_ready` goes on when the line does not say busy (R73, R170, R172). -/
def Obligations.BusCommandHeldWhileBusy : Prop :=
  ∀ s : State, s.drv.hasBusy = true →
    (busyLevel s = true → (∀ n, s.cfg.busyTimeout = some n → s.ctl.polls < n) →
      (∀ (nb : Nat) (i : Instr), wellFormed s.cfg (.bus nb) i = true → ∃ t, exec i s = .next t ∧ HeldAt s t) ∧
      HeldAt s (perform .waitReady s)) ∧
    (busyLevel s = false → WaitedOn s (perform .waitReady s))

/-- With BUSY_TIMEOUT = n, a busy poll after n busy polls raises HardwareTimeout, at the gate of a bus command and in
`wait_ready`: nothing is sent, what was sent stays sent and SEQ keeps its value (R172, R262, R264). -/
def Obligations.BusyTimeoutRaises : Prop :=
  ∀ (s : State) (n : Nat), s.drv.hasBusy = true → busyLevel s = true →
    s.cfg.busyTimeout = some n → n ≤ s.ctl.polls →
    (∀ (nb : Nat) (i : Instr), wellFormed s.cfg (.bus nb) i = true → ∃ t, exec i s = .next t ∧ TimedOut s t) ∧
    TimedOut s (perform .waitReady s)

/-- Without a busy wire a bus command goes out and `wait_ready` goes on whatever the chip is doing (R73, R172, R314). When
the command reaches a busy chip, a table register it writes is left unspecified, and so is a refresh that is in progress
(spec/93 U7): the model's reading (log 13, log 14). -/
def Obligations.NoBusyWireSendsAtOnce : Prop :=
  ∀ s : State, s.drv.hasBusy = false →
    WaitedOn s (perform .waitReady s) ∧
    ∀ (nb : Nat) (i : Instr), wellFormed s.cfg (.bus nb) i = true →
      ∃ t c d, exec i s = .next t ∧ t.log.trace = s.log.trace ++ [.tx false c d] ∧
        s.cfg.opc.byteOf c :: d = encode s.cfg i ∧
        t.ctl = s.ctl.next ∧ SameBlock s t ∧
        (busyLevel s = true →
          (s.chip.engine.active = true → t.chip.engine.disturbed.isSome ∧
            t.chip.engine.prev.loose.isSome ∧ t.chip.engine.cur.loose.isSome) ∧
          ∀ data, (i = .cmdLutVcom data → t.chip.tables.vcom.loose.isSome) ∧
            (i = .cmdLutWw data → t.chip.tables.ww.loose.isSome) ∧
            (i = .cmdLutWb data → t.chip.tables.wb.loose.isSome) ∧
            (i = .cmdLutBb data → t.chip.tables.bb.loose.isSome) ∧
            (i = .cmdLutBw data → t.chip.tables.bw.loose.isSome))

/-! ## Phase rows -/

/-- A used row: each code held for its frames, the four in turn, REP times, on the line of the lane the engine is at, and
nothing else of the machine changes (R100, and the shapes of R135 to R137 and R227). The model's choices: code 11 is
recorded as held, and a used row after an unused row of its table runs as a row of free values (log 12); a row instruction
acts at the engine's place in states without a refresh too (log 21). -/
def Obligations.UsedRowDrivesItsLine : Prop :=
  ∀ (s : State) (c0 c1 c2 c3 : Code) (d0 d1 d2 d3 rep : Byte), rep ≠ 0 →
    let k := s.cfg.polarity.black
    let w := s.cfg.polarity.white
    let e := s.chip.engine
    let times := fun (h : List Hold) =>
      if e.lane ∈ e.gap then (RowOp.free s.env.free).run else (List.replicate rep.toNat h).flatten
    (∃ t, exec (.phaseRow c0 c1 c2 c3 d0 d1 d2 d3 rep) s = .next t ∧
      RowRan s t (times [⟨c0, d0⟩, ⟨c1, d1⟩, ⟨c2, d2⟩, ⟨c3, d3⟩]) e.gap) ∧
    (∃ t, exec (.settleRowBw d0 rep) s = .next t ∧ RowRan s t (times [⟨k, d0⟩, ⟨0, 0⟩, ⟨0, 0⟩, ⟨0, 0⟩]) e.gap) ∧
    (∃ t, exec (.pingpongRowBw d0 rep) s = .next t ∧ RowRan s t (times [⟨k, d0⟩, ⟨w, d0⟩, ⟨0, 0⟩, ⟨0, 0⟩]) e.gap) ∧
    (∃ t, exec (.finalRowBw d0 rep) s = .next t ∧ RowRan s t (times [⟨w, d0⟩, ⟨0, 0⟩, ⟨0, 0⟩, ⟨0, 0⟩]) e.gap) ∧
    (∃ t, exec (.greyRow d0) s = .next t ∧
      RowRan s t (if e.lane ∈ e.gap then (RowOp.free s.env.free).run else [⟨k, d0⟩, ⟨0, 0⟩, ⟨0, 0⟩, ⟨0, 0⟩]) e.gap)

/-- A row with REP = 0 is skipped, whatever its other bytes are: no line is driven, and nothing else changes but that the
lane has met an unused row (R95, R100; the record of it is the model's, log 12). -/
def Obligations.UnusedRowDrivesNothing : Prop :=
  ∀ (s : State) (c0 c1 c2 c3 : Code) (d0 d1 d2 d3 : Byte),
    ∃ t, exec (.unusedRow c0 c1 c2 c3 d0 d1 d2 d3) s = .next t ∧
      RowRan s t [] (s.chip.engine.lane :: s.chip.engine.gap)

/-- After any row the engine is at the next lane of the row, at the next of the seven rows, or at the end of the refresh,
where both image slots are left unspecified (R90, R100, spec/93 U8). The order of the lanes inside a row is the model's
(log 4). -/
def Obligations.RowMovesEngineOn : Prop :=
  ∀ (s t : State) (i : Instr) (l : Lane), wellFormed s.cfg (.row l) i = true → exec i s = .next t → RowAdvanced s t

/-- A refresh with programmed tables, each with its used rows first (R101) and the two trailing VCOM bytes 0, runs all
seven rows of all five tables in 35 engine steps and ends: each line has then been driven with the codes of its table,
row by row in order, for the frames they take (R100, R101), and nothing of the block has changed. The one row of one lane
a step is the model's (log 4). -/
def Obligations.RefreshRunsItsTables : Prop :=
  ∀ (s : State) (n : Nat) (chip : Chip), s.chip.engine = Engine.start n chip → chip.lutSrc = .known .programmed →
    chip.tables.trailingSet = false →
    (∀ l, (chip.tables.get l).loose = none ∧ 42 ≤ (chip.tables.get l).last.length ∧
      UsedRowsFirst (chip.tables.get l).last) →
    s.env.turnFeed.take 35 = List.replicate 35 true →
    ∃ t, Runs 35 s t ∧ t.chip.engine.active = false ∧
      (∀ l, t.chip.engine.waves.get l = tableHolds (chip.tables.get l).last ∧
        holdFrames (t.chip.engine.waves.get l) = tableFrames (chip.tables.get l).last) ∧
      t.chip.engine.prev = chip.prev ∧ t.chip.engine.cur = chip.cur ∧
      t.chip = { s.chip with engine := t.chip.engine, prev := t.chip.prev, cur := t.chip.cur } ∧
      t.chip.prev.loose.isSome ∧ t.chip.cur.loose.isSome ∧
      t.ctl = s.ctl ∧ t.pins = s.pins ∧ t.log = s.log ∧ SameBlock s t

/-! ## Host operations -/

/-- INIT with a supported resolution and a legal speed, 0 among them: the configuration is latched and the script begins,
in the order of R175: reset pulse, panel byte, the further register writes of `INIT_REGS`, the tables when the speed is at
least 1, counter, SEQ, INITED (R174, R175, R177, R30). -/
def Obligations.InitLatchesConfiguration : Prop :=
  ∀ s : State, s.ctl.running = false → resolutionOk s.cfg s.regs.cfgWidth.toNat s.regs.cfgHeight.toNat = true →
    (s.regs.argSpeed = 0 ∨ (2 ^ s.cfg.fracBits ≤ s.regs.argSpeed ∧ s.regs.argSpeed ≤ 6 * 2 ^ s.cfg.fracBits)) →
    ∃ t, exec .init s = .next t ∧ t.ctl.running = true ∧ t.ctl.err = .none ∧ t.ctl.cause = .none ∧
      t.ctl.op = some .init ∧ t.ctl.pos = 0 ∧
      t.ctl.todo = [.resetPin false, .resetPin true, .waitReady, .send .panelConfig .psr] ++
        s.cfg.initRegs.map (fun e => .send (.raw e.1) (.bytes e.2)) ++
        (if s.regs.argSpeed = 0 then [] else
          [.synth, .send .lutVcom (.table .vcom), .send .lutWw (.table .ww), .send .lutWb (.table .wb),
            .send .lutBb (.table .bb), .send .lutBw (.table .bw)]) ++
        [.clearCount, .setSeq .idle, .setInited, .ret true] ∧
      t.ctl.seq = s.ctl.seq ∧ t.ctl.inited = s.ctl.inited ∧ t.ctl.inj = s.ctl.inj ∧ t.ctl.any = s.ctl.any ∧
      t.ctl.result = s.ctl.result ∧
      t.drv = { speed := s.regs.argSpeed, fr := s.regs.argFlags.getLsbD 0, updateCount := s.drv.updateCount,
                fullPeriod := s.regs.cfgFullPeriod.toNat, mirrorX := s.regs.cfgFlags.getLsbD 0,
                mirrorY := s.regs.cfgFlags.getLsbD 1, width := s.regs.cfgWidth.toNat,
                height := s.regs.cfgHeight.toNat, hasBusy := s.regs.cfgFlags.getLsbD 2 } ∧
      t.cfg = s.cfg ∧ t.regs = s.regs ∧ t.tabs = s.tabs ∧ t.grey = s.grey ∧ SameMemory s t ∧
      t.chip = s.chip ∧ t.log = s.log ∧ t.pins = s.pins

/-- A whole INIT to a speed of at least 1 on a quiet chip, with no further register writes configured: the reset pulse,
the panel byte, then the five tables; afterwards INITED, the counter 0, SEQ idle, INJ and ANY 0, RESULT 1, and a chip that
is off, with both image slots and the partial mode unspecified (R174, R175, R300, R301, R302). The script at speed 0 and
with register writes is that of InitLatchesConfiguration. -/
def Obligations.InitRunsToReturn : Prop :=
  ∀ s : State, s.ctl.running = false → s.ctl.todo = [] → s.cfg.wf = true → s.cfg.initRegs = [] →
    resolutionOk s.cfg s.regs.cfgWidth.toNat s.regs.cfgHeight.toNat = true →
    2 ^ s.cfg.fracBits ≤ s.regs.argSpeed → s.regs.argSpeed ≤ 6 * 2 ^ s.cfg.fracBits → Quiet 15 s →
    ∃ t u tabs b, exec .init s = .next t ∧ Runs 14 t u ∧
      synthesize s.cfg s.regs.argSpeed (s.regs.argFlags.getLsbD 0) = .ok (some tabs) ∧
      buildPsr s.cfg s.regs.cfgWidth.toNat s.regs.cfgHeight.toNat .programmed (s.regs.cfgFlags.getLsbD 0)
        (s.regs.cfgFlags.getLsbD 1) = .ok b ∧
      u.ctl.running = false ∧ u.ctl.result = true ∧ u.ctl.err = .none ∧ u.ctl.inited = true ∧ u.ctl.seq = .idle ∧
      u.ctl.inj = false ∧ u.ctl.any = false ∧ u.log.results = s.log.results ++ [⟨some .init, true, .none, .none⟩] ∧
      u.drv.updateCount = 0 ∧ u.drv.speed = s.regs.argSpeed ∧ u.drv.fr = s.regs.argFlags.getLsbD 0 ∧
      u.drv.fullPeriod = s.regs.cfgFullPeriod.toNat ∧ u.drv.mirrorX = s.regs.cfgFlags.getLsbD 0 ∧
      u.drv.mirrorY = s.regs.cfgFlags.getLsbD 1 ∧ u.drv.hasBusy = s.regs.cfgFlags.getLsbD 2 ∧
      u.drv.width = s.regs.cfgWidth.toNat ∧ u.drv.height = s.regs.cfgHeight.toNat ∧ u.tabs = tabs ∧ u.chip.lutSrc = .known .programmed ∧
      u.chip.tables = { vcom := .known tabs.vcom, ww := .known tabs.ww, wb := .known tabs.wb, bb := .known tabs.bb,
                        bw := .known tabs.bw } ∧
      u.chip.powered = .known false ∧ u.chip.prev.loose.isSome ∧ u.chip.cur.loose.isSome ∧
      u.chip.partialMode.loose.isSome ∧
      (observe u).trace = (observe s).trace ++ [.resetEdge false 10, .resetEdge true 10] ++
        [(.panelConfig, [b]), (.lutVcom, tabs.vcom), (.lutWw, tabs.ww), (.lutWb, tabs.wb), (.lutBb, tabs.bb),
          (Cmd.lutBw, tabs.bw)].map (fun e => Event.tx (s.regs.cfgFlags.getLsbD 2) e.1 e.2) ∧
      u.mem = s.mem ∧ u.regs = s.regs ∧ u.grey = s.grey

/-- A whole SET_SPEED to a speed of at least 1 on a quiet chip: registers, panel byte, the five tables in the chip, the
counter cleared, SEQ not changed (R176). -/
def Obligations.SetSpeedLoadsTables : Prop :=
  ∀ s : State, s.ctl.running = false → s.ctl.inited = true → s.cfg.wf = true →
    resolutionOk s.cfg s.drv.width s.drv.height = true →
    2 ^ s.cfg.fracBits ≤ s.regs.argSpeed → s.regs.argSpeed ≤ 6 * 2 ^ s.cfg.fracBits → Quiet 10 s →
    let fr := if s.regs.argFlags.getLsbD 1 then s.regs.argFlags.getLsbD 0 else s.drv.fr
    ∃ t u tabs b, exec .setSpeed s = .next t ∧ Runs 9 t u ∧
      synthesize s.cfg s.regs.argSpeed fr = .ok (some tabs) ∧
      buildPsr s.cfg s.drv.width s.drv.height .programmed s.drv.mirrorX s.drv.mirrorY = .ok b ∧
      u.ctl.running = false ∧ u.ctl.result = true ∧ u.ctl.err = .none ∧ u.ctl.seq = s.ctl.seq ∧
      u.log.results = s.log.results ++ [⟨some .setSpeed, true, .none, .none⟩] ∧
      u.drv = { s.drv with speed := s.regs.argSpeed, fr := fr, updateCount := 0 } ∧ u.tabs = tabs ∧
      u.chip = { s.chip with
        lutSrc := .known .programmed
        tables := { vcom := .known tabs.vcom, ww := .known tabs.ww, wb := .known tabs.wb, bb := .known tabs.bb,
                    bw := .known tabs.bw } } ∧ u.ctl.inited = true ∧
      transactions u.log.trace = transactions s.log.trace ++
        [(.panelConfig, [b]), (.lutVcom, tabs.vcom), (.lutWw, tabs.ww), (.lutWb, tabs.wb), (.lutBb, tabs.bb),
          (.lutBw, tabs.bw)] ∧
      u.mem = s.mem ∧ u.regs = s.regs ∧ u.grey = s.grey

/-- A whole SET_SPEED to speed 0 on a quiet chip: the panel byte with the internal source and nothing else; the chip's and
the block's tables keep what they hold (R142, R176). -/
def Obligations.SetSpeedZeroSelectsInternal : Prop :=
  ∀ s : State, s.ctl.running = false → s.ctl.inited = true → s.cfg.wf = true →
    resolutionOk s.cfg s.drv.width s.drv.height = true → s.regs.argSpeed = 0 → Quiet 4 s →
    let fr := if s.regs.argFlags.getLsbD 1 then s.regs.argFlags.getLsbD 0 else s.drv.fr
    ∃ t u b, exec .setSpeed s = .next t ∧ Runs 3 t u ∧
      buildPsr s.cfg s.drv.width s.drv.height .internal s.drv.mirrorX s.drv.mirrorY = .ok b ∧
      u.ctl.running = false ∧ u.ctl.result = true ∧ u.ctl.err = .none ∧ u.ctl.seq = s.ctl.seq ∧
      u.log.results = s.log.results ++ [⟨some .setSpeed, true, .none, .none⟩] ∧
      u.drv = { s.drv with speed := 0, fr := fr, updateCount := 0 } ∧ u.tabs = s.tabs ∧
      u.chip = { s.chip with lutSrc := .known .internal } ∧
      transactions u.log.trace = transactions s.log.trace ++ [(.panelConfig, [b])] ∧
      u.mem = s.mem ∧ u.regs = s.regs ∧ u.grey = s.grey

/-- A non-blocking UPDATE whose sample says busy is "not started": RESULT 0, no error, no transaction, every other
register as it was (R179, R266). -/
def Obligations.BusyUpdateIsNotStarted : Prop :=
  ∀ s : State, s.ctl.running = false → s.ctl.inited = true → s.regs.argFlags.getLsbD 2 = false →
    s.drv.hasBusy = true → busyLevel s = true →
    ∃ t, exec .update s = .next t ∧ t.ctl.result = false ∧ t.ctl.err = .none ∧ t.ctl.cause = .none ∧
      t.ctl.running = false ∧ t.ctl.seq = s.ctl.seq ∧ t.ctl.inited = s.ctl.inited ∧ t.ctl.inj = s.ctl.inj ∧
      t.ctl.any = s.ctl.any ∧ t.ctl.op = none ∧ t.ctl.todo = [] ∧
      t.log.results = s.log.results ++ [⟨some .update, false, .none, .none⟩] ∧
      transactions t.log.trace = transactions s.log.trace ∧ t.log.wire = s.log.wire ∧ t.chip = s.chip ∧
      t.pins = s.pins ∧ SameBlock s t

/-- An UPDATE that is not rejected: INJ is the injection condition, and the script is injection load, transfer, restore,
counter, tail, in the order of R178 (R178, R180 to R186, R190). Its two table actions: the injection's puts
SYNTHESIZE(FULL_REFRESH_SPEED, false) in the table buffers, whatever SPEED and FR are (R181), the restore's
SYNTHESIZE(SPEED, FR), at speed 0 nothing (R183, R142); nothing else changes but the position. -/
def Obligations.UpdateScriptOrder : Prop :=
  (∀ s : State, s.ctl.running = false → s.ctl.inited = true →
    (s.regs.argFlags.getLsbD 2 = true ∨ s.drv.hasBusy = false ∨ busyLevel s = false) →
    let inj : Bool := decide (s.drv.fr = true ∧ 2 ^ s.cfg.fracBits ≤ s.drv.speed ∧ s.drv.fullPeriod ≠ 0 ∧
      s.drv.updateCount % s.drv.fullPeriod = 0)
    let blocking := s.regs.argFlags.getLsbD 2
    let buf : Space := if s.regs.argFlags.getLsbD 3 then .fb1 else .fb0
    let luts : List Action := [.send .lutVcom (.table .vcom), .send .lutWw (.table .ww), .send .lutWb (.table .wb),
      .send .lutBb (.table .bb), .send .lutBw (.table .bw)]
    ∃ t, exec .update s = .next t ∧ t.ctl.running = true ∧ t.ctl.err = .none ∧ t.ctl.inj = inj ∧
      t.ctl.op = some .update ∧ t.ctl.seq = s.ctl.seq ∧
      t.ctl.todo = (if inj then .synthFull :: luts else []) ++
        [.setSeq .powering, .send .powerOn (.bytes []), .setSeq .transferring, .send .partialOut (.bytes []),
         .send .dataCurrent (.buffer buf), .send .dataStop (.bytes []), .send .refresh (.bytes []),
         .setSeq .refreshing] ++
        (if inj then .synth :: luts else []) ++ [.bumpCount] ++
        (if blocking then [.waitReady, .setSeq .poweredOn, .setSeq .poweringOff, .send .powerOff (.bytes []),
          .setSeq .idle] else []) ++ [.ret true] ∧
      transactions t.log.trace = transactions s.log.trace ∧ t.log.results = s.log.results ∧ t.chip = s.chip ∧
      SameBlock s t) ∧
  ∀ s : State, s.cfg.wf = true →
    (∃ tabs, synthesize s.cfg s.cfg.fullSpeed false = .ok (some tabs) ∧
      perform .synthFull s = { s with tabs := tabs, ctl := s.ctl.next }) ∧
    (2 ^ s.cfg.fracBits ≤ s.drv.speed → s.drv.speed ≤ 6 * 2 ^ s.cfg.fracBits →
      ∃ tabs, synthesize s.cfg s.drv.speed s.drv.fr = .ok (some tabs) ∧
        perform .synth s = { s with tabs := tabs, ctl := s.ctl.next }) ∧
    (s.drv.speed = 0 → perform .synth s = { s with ctl := s.ctl.next })

/-- A whole non-blocking UPDATE that does not inject (R180), with FR 0 or 1, on a quiet chip: five transactions, the current slot holds the buffer, the
chip is powered and refreshing, the counter is one higher, RESULT 1 (R178, R182, R184, R186). The turns of the last three
steps are the block's (log 4). -/
def Obligations.NonBlockingUpdateTransfers : Prop :=
  ∀ s : State, s.ctl.running = false → s.ctl.inited = true → s.cfg.opc.wf = true →
    s.regs.argFlags.getLsbD 2 = false →
    ¬ (s.drv.fr = true ∧ 2 ^ s.cfg.fracBits ≤ s.drv.speed ∧ s.drv.fullPeriod ≠ 0 ∧
      s.drv.updateCount % s.drv.fullPeriod = 0) →
    Quiet 11 s →
    s.env.turnFeed.take 3 = [false, false, false] →
    let buf : Space := if s.regs.argFlags.getLsbD 3 then .fb1 else .fb0
    let data := (s.mem.get buf).readRange 0 (s.drv.width * s.drv.height / 8)
    ∃ t u, exec .update s = .next t ∧ Runs 10 t u ∧
      u.ctl.running = false ∧ u.ctl.result = true ∧ u.ctl.err = .none ∧ u.ctl.seq = .refreshing ∧
      u.ctl.inj = false ∧ u.log.results = s.log.results ++ [⟨some .update, true, .none, .none⟩] ∧
      u.drv = { s.drv with updateCount := s.drv.updateCount + 1 } ∧
      u.chip.cur = .known data ∧ u.chip.prev = s.chip.prev ∧ u.chip.powered = .known true ∧
      u.chip.partialMode = .known false ∧ u.chip.engine.active = true ∧ u.chip.engine.cur = .known data ∧
      u.chip.tables = s.chip.tables ∧ u.chip.lutSrc = s.chip.lutSrc ∧ u.ctl.inited = true ∧
      transactions u.log.trace = transactions s.log.trace ++
        [(.powerOn, []), (.partialOut, []), (.dataCurrent, data), (.dataStop, []), (.refresh, [])] ∧
      u.mem = s.mem ∧ u.regs = s.regs ∧ u.tabs = s.tabs ∧ u.grey = s.grey

/-- A whole blocking UPDATE that does not inject (R180), with FR 0 or 1, whose refresh runs at once: six transactions, power off last, SEQ idle, the
counter one higher, RESULT 1 (R178, R182, R184, R185). That the refresh's 35 rows run before the block's next action is
one of the paces the model allows (log 4). -/
def Obligations.BlockingUpdatePowersOff : Prop :=
  ∀ s : State, s.ctl.running = false → s.ctl.inited = true → s.cfg.opc.wf = true →
    s.regs.argFlags.getLsbD 2 = true →
    ¬ (s.drv.fr = true ∧ 2 ^ s.cfg.fracBits ≤ s.drv.speed ∧ s.drv.fullPeriod ≠ 0 ∧
      s.drv.updateCount % s.drv.fullPeriod = 0) →
    Quiet 51 s →
    s.env.turnFeed.take 35 = List.replicate 35 true →
    let buf : Space := if s.regs.argFlags.getLsbD 3 then .fb1 else .fb0
    let data := (s.mem.get buf).readRange 0 (s.drv.width * s.drv.height / 8)
    ∃ t u, exec .update s = .next t ∧ Runs 50 t u ∧
      u.ctl.running = false ∧ u.ctl.result = true ∧ u.ctl.err = .none ∧ u.ctl.seq = .idle ∧
      u.ctl.inj = false ∧ u.log.results = s.log.results ++ [⟨some .update, true, .none, .none⟩] ∧
      u.drv = { s.drv with updateCount := s.drv.updateCount + 1 } ∧
      u.chip.powered = .known false ∧ u.chip.engine.active = false ∧ u.chip.cur.last = data ∧
      u.chip.tables = s.chip.tables ∧ u.chip.lutSrc = s.chip.lutSrc ∧ u.chip.partialMode = .known false ∧
      u.ctl.inited = true ∧
      transactions u.log.trace = transactions s.log.trace ++
        [(.powerOn, []), (.partialOut, []), (.dataCurrent, data), (.dataStop, []), (.refresh, []), (.powerOff, [])] ∧
      u.mem = s.mem ∧ u.regs = s.regs ∧ u.tabs = s.tabs ∧ u.grey = s.grey

/-- A whole WAIT_OFF on a quiet chip: one power-off transaction, whether or not the chip was on; SEQ idle, RESULT 1
(R188). -/
def Obligations.WaitOffPowersOff : Prop :=
  ∀ s : State, s.ctl.running = false → s.ctl.inited = true → s.cfg.opc.wf = true → Quiet 7 s →
    ∃ t u, exec .waitOff s = .next t ∧ Runs 6 t u ∧
      u.ctl.running = false ∧ u.ctl.result = true ∧ u.ctl.err = .none ∧ u.ctl.seq = .idle ∧
      u.log.results = s.log.results ++ [⟨some .waitOff, true, .none, .none⟩] ∧
      u.chip = { s.chip with powered := .known false } ∧
      transactions u.log.trace = transactions s.log.trace ++ [(.powerOff, [])] ∧
      u.drv = s.drv ∧ u.mem = s.mem ∧ u.regs = s.regs ∧ u.tabs = s.tabs ∧ u.grey = s.grey

/-- IS_BUSY: RESULT is one sample of the busy line, false without a busy wire; no bus traffic, no change but the latches (R171,
R189). -/
def Obligations.IsBusyReturnsSample : Prop :=
  ∀ s : State, s.ctl.running = false → s.ctl.inited = true →
    ∃ t, exec .isBusy s = .next t ∧ t.ctl.result = (s.drv.hasBusy && busyLevel s) ∧ t.ctl.err = .none ∧
      t.ctl.cause = .none ∧ t.ctl.running = false ∧ t.ctl.seq = s.ctl.seq ∧ t.ctl.inited = s.ctl.inited ∧
      t.ctl.inj = s.ctl.inj ∧ t.ctl.any = s.ctl.any ∧ t.ctl.op = none ∧ t.ctl.todo = [] ∧
      t.log.results = s.log.results ++ [⟨some .isBusy, s.drv.hasBusy && busyLevel s, .none, .none⟩] ∧
      transactions t.log.trace = transactions s.log.trace ∧ t.log.wire = s.log.wire ∧ t.chip = s.chip ∧
      t.pins = s.pins ∧ t.env = s.env ∧ SameBlock s t

/-- FADE_OUT is answered with Unspecified cause 1: no bus traffic, no change but the latches (R192). That the model runs on
after it, and does not refuse the run, is its choice (log 11). -/
def Obligations.FadeOutIsUnspecified : Prop :=
  ∀ s : State, s.ctl.running = false → s.ctl.inited = true →
    ∃ t, exec .fadeOut s = .next t ∧ Raised .unspecified .fadeOut t ∧ OnlyLatches s t (some .fadeOut) ∧
      ErrClass.unspecified.code = 7 ∧ Cause.fadeOut.code = 1

/-- A reserved code decodes as such and raises ConfigurationError cause 4: no bus traffic, no change but the latches, also
before INIT (R107, R268). It names no operation. -/
def Obligations.ReservedCodeIsConfigurationError : Prop :=
  ∀ (c : Config) (b : Byte), (b.toNat = 0 ∨ 8 ≤ b.toNat) →
    decode c .host [b] = .ok (.hostReserved b) ∧
    ∀ s : State, s.ctl.running = false →
      ∃ t, exec (.hostReserved b) s = .next t ∧ Raised .configuration .reservedOp t ∧ OnlyLatches s t none

/-- Before a successful INIT every other operation is answered with Unspecified cause 2: no bus traffic, no change but the
latches (R303, R268). That the model runs on after it, and does not refuse the run, is its choice (log 11). -/
def Obligations.OperationBeforeInitIsUnspecified : Prop :=
  ∀ s : State, s.ctl.running = false → s.ctl.inited = false →
    ∀ e ∈ [(Instr.setSpeed, HostOp.setSpeed), (.update, .update), (.greyRender, .greyRender), (.fadeOut, .fadeOut),
        (.waitOff, .waitOff), (.isBusy, .isBusy)],
      ∃ t, exec e.1 s = .next t ∧ Raised .unspecified .beforeInit t ∧ OnlyLatches s t (some e.2)

/-- Every failed check of INIT, SET_SPEED and GREY_RENDER raises its error, the first in the order of R268, before any
bus traffic and with no change but the latches (R132, R232, R264, R268). That the model runs on after GREY_RENDER at
speed 0, and does not refuse the run, is its choice (log 11). -/
def Obligations.FailedChecksChangeOnlyLatches : Prop :=
  ∀ s : State, s.ctl.running = false →
    let badRes := resolutionOk s.cfg s.regs.cfgWidth.toNat s.regs.cfgHeight.toNat = false
    let badSpeed := s.regs.argSpeed ≠ 0 ∧
      (s.regs.argSpeed < 2 ^ s.cfg.fracBits ∨ 6 * 2 ^ s.cfg.fracBits < s.regs.argSpeed)
    let g := s.regs.argG.toNat
    let badG := g < 1 ∨ 32 < g ∨ s.cfg.framesToBlack / g = 0
    let long := 2 ≤ g ∧ 255 < s.cfg.framesToBlack / g * (3 * ((g - 2) / 3) + 3)
    (badRes → ∃ t, exec .init s = .next t ∧ Raised .configuration .resolution t ∧ OnlyLatches s t (some .init)) ∧
    (¬ badRes → badSpeed → ∃ t, exec .init s = .next t ∧ Raised .configuration .speed t ∧ OnlyLatches s t (some .init)) ∧
    (s.ctl.inited = true → badSpeed →
      ∃ t, exec .setSpeed s = .next t ∧ Raised .configuration .speed t ∧ OnlyLatches s t (some .setSpeed)) ∧
    (s.ctl.inited = true → badG →
      ∃ t, exec .greyRender s = .next t ∧ Raised .configuration .greyLevels t ∧ OnlyLatches s t (some .greyRender)) ∧
    (s.ctl.inited = true → ¬ badG → s.drv.speed = 0 →
      ∃ t, exec .greyRender s = .next t ∧ Raised .unspecified .greyAtSpeedZero t ∧ OnlyLatches s t (some .greyRender)) ∧
    (s.ctl.inited = true → ¬ badG → s.drv.speed ≠ 0 → long →
      ∃ t, exec .greyRender s = .next t ∧ Raised .configuration .duration t ∧ OnlyLatches s t (some .greyRender))

/-- While an operation runs no other is accepted: a host instruction leaves the state as it was, and a step, whatever else
it does, takes none of the host's accesses (R191). That the accesses wait in a list is the model's (log 6, log 23). -/
def Obligations.RunningOperationHoldsHost : Prop :=
  (∀ (s : State) (i : Instr), wellFormed s.cfg .host i = true → s.ctl.running = true → exec i s = .next s) ∧
  ∀ s t : State, s.ctl.running = true → step s = .next t → t.env.hostIn = s.env.hostIn

/-- GREY_RENDER with legal operands: G is latched and the script of normalisation, passes and restore begins (R231). -/
def Obligations.GreyRenderBegins : Prop :=
  ∀ s : State, s.ctl.running = false → s.ctl.inited = true → s.drv.speed ≠ 0 →
    let g := s.regs.argG.toNat
    1 ≤ g → g ≤ 32 → s.cfg.framesToBlack / g ≠ 0 →
    (2 ≤ g → s.cfg.framesToBlack / g * (3 * ((g - 2) / 3) + 3) ≤ 255) →
    ∃ t, exec .greyRender s = .next t ∧ t.ctl.running = true ∧ t.ctl.err = .none ∧ t.grey = { s.grey with g := g } ∧
      t.ctl.todo = [.normalise, .greyLoop 0, .synth, .send .lutVcom (.table .vcom), .send .lutWw (.table .ww),
        .send .lutWb (.table .wb), .send .lutBb (.table .bb), .send .lutBw (.table .bw), .ret true] ∧
      t.ctl.seq = s.ctl.seq ∧ t.drv = s.drv ∧ t.regs = s.regs ∧ t.tabs = s.tabs ∧ SameMemory s t ∧
      t.chip = s.chip ∧ t.log = s.log

/-- A whole GREY_RENDER with one grey level on a quiet chip: no pass, and the tables of SPEED and FR restored all the same;
the counter is not touched (R222, R230, R234). -/
def Obligations.OneLevelRenderOnlyRestores : Prop :=
  ∀ s : State, s.ctl.running = false → s.ctl.inited = true → s.cfg.opc.wf = true → s.regs.argG = 1 →
    s.cfg.framesToBlack ≠ 0 → 2 ^ s.cfg.fracBits ≤ s.drv.speed → s.drv.speed ≤ 6 * 2 ^ s.cfg.fracBits → Quiet 10 s →
    ∃ t u tabs, exec .greyRender s = .next t ∧ Runs 9 t u ∧
      synthesize s.cfg s.drv.speed s.drv.fr = .ok (some tabs) ∧ u.tabs = tabs ∧
      u.ctl.running = false ∧ u.ctl.result = true ∧ u.ctl.err = .none ∧ u.ctl.seq = s.ctl.seq ∧
      u.log.results = s.log.results ++ [⟨some .greyRender, true, .none, .none⟩] ∧
      u.chip = { s.chip with tables := { vcom := .known tabs.vcom, ww := .known tabs.ww, wb := .known tabs.wb,
                                         bb := .known tabs.bb, bw := .known tabs.bw } } ∧
      transactions u.log.trace = transactions s.log.trace ++
        [(.lutVcom, tabs.vcom), (.lutWw, tabs.ww), (.lutWb, tabs.wb), (.lutBb, tabs.bb), (.lutBw, tabs.bw)] ∧
      u.drv = s.drv ∧ u.regs = s.regs ∧ u.mem.fb0 = s.mem.fb0 ∧ u.mem.fb1 = s.mem.fb1 ∧ u.mem.lum = s.mem.lum ∧
      u.mem.maskOld = s.mem.maskOld ∧ u.mem.maskNew = s.mem.maskNew ∧
      ∀ i, i < s.drv.width * s.drv.height → u.mem.lvl.read i = 0

/-! ## Greyscale -/

/-- NORMALIZE is (255 - l)/255 * (G - 1) rounded to the nearest integer, a tie being impossible: twice the distance from
the exact quotient is less than one; the result is in 0..G-1 (R221). The first part of a render puts it in LVL for every
pixel of LUM; every other space reads as before, and nothing else changes but the position (R231). -/
def Obligations.NormalizeRoundsToNearest : Prop :=
  (∀ (l : Byte) (g : Nat), 1 ≤ g → g ≤ 32 →
    let n := normalizeLevel l g
    n ≤ g - 1 ∧ 2 * ((255 - l.toNat) * (g - 1)) < 255 * (2 * n + 1) ∧
      255 * (2 * n) < 2 * ((255 - l.toNat) * (g - 1)) + 255 ∧
      (l.toNat = 255 → n = 0) ∧ (l.toNat = 0 → n = g - 1)) ∧
  ∀ s : State, s.mem.wf = true → 1 ≤ s.grey.g → s.grey.g ≤ 32 →
    let t := perform .normalise s
    (∀ i, i < s.drv.width * s.drv.height →
      (t.mem.lvl.read i).toNat = normalizeLevel (s.mem.lum.read i) s.grey.g) ∧
    (∀ (sp : Space) (a : Nat), sp ≠ .lvl → (t.mem.get sp).read a = (s.mem.get sp).read a) ∧
    t = { s with mem := t.mem, ctl := s.ctl.next }

/-- Greyscale partition completeness: a pixel of level 1 to G-1 is in a driven class in exactly the pass 3*((L-1) div 3),
which is a pass of the loop, and there its frame count is STEP*L and not 0; level 0 is driven in no pass (R226, R233). -/
def Obligations.GreyLevelsPartition : Prop :=
  ∀ (c : Config) (g base : Nat) (level : Byte), 1 ≤ g → g ≤ 32 → level.toNat < g → c.framesToBlack / g ≠ 0 →
    base % 3 = 0 →
    (greyClass base level ≠ .bw ↔ 1 ≤ level.toNat ∧ base = 3 * ((level.toNat - 1) / 3)) ∧
    (greyClass base level ≠ .bw → base + 2 ≤ g ∧ 0 < greyStep c g * level.toNat ∧
      greyStep c g * level.toNat = greyStep c g * (base +
        (match greyClass base level with
         | .ww => 1
         | .bb => 2
         | .wb => 3
         | _ => 0)))

/-- BUILD_MASKS: pixel i of the two masks has the old and the new bit of the class of its level, each packed as R62 says,
and a refresh whose image slots hold the two masks sorts pixel i into that class (R45); ANY says whether a level g+1, g+2
or g+3 occurs; nothing else of the block changes (R223 to R225). -/
def Obligations.MasksEncodeClasses : Prop :=
  ∀ (s : State) (g : Nat), (s.drv.width * s.drv.height) % 8 = 0 →
    let t := buildMasks g s
    let level := fun i => (s.mem.lvl.readRange 0 (s.drv.width * s.drv.height))[i]?.getD 0
    (∀ i, i < s.drv.width * s.drv.height →
      pixelOf (t.mem.maskOld.read ·) i = (match greyClass g (level i) with
        | .bb => true
        | .bw => true
        | _ => false) ∧
      pixelOf (t.mem.maskNew.read ·) i = (match greyClass g (level i) with
        | .bb => true
        | .wb => true
        | _ => false)) ∧
    (∀ e : Engine, e.prev = .known (t.mem.maskOld.readRange 0 (s.drv.width * s.drv.height / 8)) →
      e.cur = .known (t.mem.maskNew.readRange 0 (s.drv.width * s.drv.height / 8)) →
      ∀ i, i < s.drv.width * s.drv.height → e.classOf i = greyClass g (level i)) ∧
    (t.ctl.any = true ↔ ∃ i, i < s.drv.width * s.drv.height ∧
      ((level i).toNat = g + 1 ∨ (level i).toNat = g + 2 ∨ (level i).toNat = g + 3)) ∧
    (∀ (sp : Space) (a : Nat), sp ≠ .maskOld → sp ≠ .maskNew → (t.mem.get sp).read a = (s.mem.get sp).read a) ∧
    t.ctl = { s.ctl with any := t.ctl.any } ∧ t.cfg = s.cfg ∧ t.drv = s.drv ∧ t.regs = s.regs ∧ t.tabs = s.tabs ∧
    t.grey = s.grey ∧ t.pins = s.pins ∧ t.chip = s.chip ∧ t.env = s.env ∧ t.log = s.log

/-- The head of the pass loop: past the last pass it goes on to the restore; a pass that matches no pixel is skipped whole;
one that does sets the frame counts and is performed, power on first and power off last (R222, R226, R228, R229, R231). -/
def Obligations.GreyLoopPerformsMatchingPasses : Prop :=
  ∀ (s : State) (g : Nat) (rest : List Action), engineTurn s = false → s.ctl.todo = .greyLoop g :: rest →
    let k := s.cfg.framesToBlack / s.grey.g
    (s.grey.g < g + 2 → ∃ t, step s = .next t ∧ t.ctl.todo = rest ∧ t.grey = s.grey ∧ t.mem = s.mem ∧
      t.log = s.log ∧ t.chip = s.chip ∧ t.tabs = s.tabs ∧ t.drv = s.drv) ∧
    (g + 2 ≤ s.grey.g → ∃ t, step s = .next t ∧ t.grey.gbase = g ∧ t.grey.g = s.grey.g ∧
      t.ctl.any = (buildMasks g s).ctl.any ∧ t.mem = (buildMasks g s).mem ∧ t.log = s.log ∧ t.chip = s.chip ∧
      t.tabs = s.tabs ∧ t.drv = s.drv ∧
      (t.ctl.any = false → t.ctl.todo = .greyLoop (g + 3) :: rest ∧ t.grey.n1 = s.grey.n1 ∧ t.grey.n2 = s.grey.n2 ∧
        t.grey.n3 = s.grey.n3) ∧
      (t.ctl.any = true →
        t.grey.n1 = BitVec.ofNat 8 (k * (g + 1)) ∧ t.grey.n2 = BitVec.ofNat 8 (k * (g + 2)) ∧
        t.grey.n3 = BitVec.ofNat 8 (k * (g + 3)) ∧
        t.ctl.todo = [.setSeq .powering, .send .powerOn (.bytes []), .setSeq .transferring,
          .send .partialOut (.bytes []), .send .dataPrevious (.buffer .maskOld), .send .dataCurrent (.buffer .maskNew),
          .send .dataStop (.bytes []), .greyTables, .send .lutVcom (.table .vcom), .send .lutWw (.table .ww),
          .send .lutWb (.table .wb), .send .lutBb (.table .bb), .send .lutBw (.table .bw),
          .send .refresh (.bytes []), .setSeq .refreshing, .waitReady, .setSeq .poweredOn, .setSeq .poweringOff,
          .send .powerOff (.bytes []), .setSeq .idle, .greyLoop (g + 3)] ++ rest))

/-- GREY_TABLES: one used row in WW, BB and WB with CODE_BLACK for N1, N2, N3 frames, BW all zero, VCOM held for N3
(R227); a pass puts them in the table buffers for the N1, N2, N3 it holds, and nothing else changes but the position
(R228). -/
def Obligations.GreyTablesBytes : Prop :=
  (∀ (c : Config) (n1 n2 n3 : Byte),
    ∃ t, greyTablesOf c n1 n2 n3 = .ok t ∧
      t.ww = rowBytes c.polarity.black 0 0 0 n1 0 0 0 1 ++ zeros 36 ∧
      t.bb = rowBytes c.polarity.black 0 0 0 n2 0 0 0 1 ++ zeros 36 ∧
      t.wb = rowBytes c.polarity.black 0 0 0 n3 0 0 0 1 ++ zeros 36 ∧
      t.bw = zeros 42 ∧
      t.vcom = rowBytes 0 0 0 0 n3 0 0 0 1 ++ zeros 38) ∧
  ∀ s : State, ∃ tabs, greyTablesOf s.cfg s.grey.n1 s.grey.n2 s.grey.n3 = .ok tabs ∧
    perform .greyTables s = { s with tabs := tabs, ctl := s.ctl.next }

/-! ## Steps -/

/-- A step runs the decoded instruction: a code the host writes to CMD when nothing runs, the bytes of the next `send` of
the script, or the row the engine is at when the turn is the engine's (R104, R108, R100, R29). How steps are taken is the
model's choice: whose turn it is and one row of one lane a step (log 4), the host's accesses as a list and a code run in
the one step that takes it (log 6), accesses taken between operations only (log 23). -/
def Obligations.StepRunsDecodedInstruction : Prop :=
  ∀ (s : State) (i : Instr),
    (∀ (v : Nat) (rest : List HostAct), engineTurn s = false → s.ctl.todo = [] → s.ctl.running = false →
      s.env.hostIn = .write 0 v :: rest → decode s.cfg .host [BitVec.ofNat 8 v] = .ok i →
      step s = exec i (writeCmd v (hostTaken (turned s)))) ∧
    (∀ (c : Cmd) (d : Payload) (rest : List Action) (bytes : List Byte), engineTurn s = false →
      s.ctl.todo = .send c d :: rest → sendBytes s c d = .ok bytes → decode s.cfg (.bus s.drv.nb) bytes = .ok i →
      step s = exec i (turned s)) ∧
    (engineTurn s = true → decode s.cfg (.row s.chip.engine.lane) s.chip.engine.fetch = .ok i →
      step s = exec i (turned s))

/-- A step always completes, but for the host filling a byte its space does not have: no fetch gives bytes the decoder
rejects, and no instruction is refused. That such a fill is a fault, and the size of a space, are the model's (log 8). -/
def Obligations.StepStopsOnlyOutsideSpaces : Prop :=
  ∀ s : State, (∃ t, step s = .next t) ∨
    (step s = .fault .outsideSpace ∧ ∃ sp a b rest, s.env.hostIn = .fill sp a b :: rest ∧ hostSpaceSize s sp ≤ a)

/-- No step changes the parameters (R7, R38). -/
def Obligations.StepKeepsParameters : Prop :=
  ∀ s t : State, step s = .next t → t.cfg = s.cfg

/-- Every step keeps the six memory spaces in canonical form (log 8). -/
def Obligations.StepKeepsMemoryCanonical : Prop :=
  ∀ s t : State, s.mem.wf = true → step s = .next t → t.mem.wf = true

/-- Busy-gate property: in the trace, every transaction made with a busy wire comes directly after a sample that said not
busy, and every step keeps that (R73, R193). -/
def Obligations.StepKeepsBusyGate : Prop :=
  ∀ s t : State, gated s.log.trace = true → step s = .next t → gated t.log.trace = true

/-- Every step keeps the pin framing: bytes and DC changes only inside an assertion of CS, DC low for the opcode byte and
high for data bytes, CS released at the end of every transaction, RESET_N high throughout one and moved only outside; with
it, that a script which has set RESET_N low sets it high next (R173, R174). -/
def Obligations.StepKeepsPinFraming : Prop :=
  ∀ s t : State, pinsOk s = true → step s = .next t → pinsOk t = true

/-- Every step keeps the register widths and reserved bits, a legal SPEED, and CS released (R21, R33, R35). -/
def Obligations.StepKeepsRegisterShape : Prop :=
  ∀ s t : State, registersOk s = true → step s = .next t → registersOk t = true

/-- Every step keeps the lengths of the five table buffers (R31). -/
def Obligations.StepKeepsTableLengths : Prop :=
  ∀ s t : State, s.tabs.sized = true → step s = .next t → t.tabs.sized = true

/-- UPDATE_COUNT changes by a step only to 0 or to one more (R23). -/
def Obligations.CounterOnlyClearsOrCounts : Prop :=
  ∀ s t : State, step s = .next t →
    t.drv.updateCount = s.drv.updateCount ∨ t.drv.updateCount = s.drv.updateCount + 1 ∨ t.drv.updateCount = 0

/-- Byte writes of a canonical memory: the byte written is read back, and every other byte reads as before (log 8). -/
def Obligations.MemoryWriteReadsBack : Prop :=
  ∀ (m : Memory) (a : Nat) (b : Byte), m.wf = true →
    (m.write a b).read a = b ∧ ∀ x, x ≠ a → (m.write a b).read x = m.read x

/-- A range read gives each byte of the memory from its start address up, in ascending order (R9, R69), and a buffer
rewritten in full reads back byte for byte. -/
def Obligations.RangeReadsEachByte : Prop :=
  (∀ (m : Memory) (a n : Nat), m.wf = true → m.readRange a n = (List.range n).map fun k => m.read (a + k)) ∧
  (∀ bytes : List Byte, (Memory.ofBytes 0 bytes).readRange 0 bytes.length = bytes)

/-! ## Reset and the host interface -/

/-- The registers R300 gives a value at block reset have it. -/
def Obligations.ResetRegisterValues : Prop :=
  let s := State.reset
  s.drv.speed = 0 ∧ s.drv.fr = false ∧ s.drv.updateCount = 0 ∧ s.drv.fullPeriod = 0 ∧ s.drv.mirrorX = false ∧
  s.drv.mirrorY = false ∧ s.drv.hasBusy = true ∧ s.ctl.seq = .idle ∧ s.ctl.op = none ∧ s.ctl.running = false ∧
  s.ctl.result = false ∧ s.ctl.err = .none ∧ s.ctl.cause = .none ∧ s.ctl.inj = false ∧ s.ctl.any = false ∧
  s.ctl.inited = false ∧ s.tabs = ⟨zeros 44, zeros 42, zeros 42, zeros 42, zeros 42⟩ ∧ s.grey = ⟨0, 0, 0, 0, 0⟩ ∧
  s.regs = ⟨0, 0, 0, 0, 0, 0, 0x04, 0⟩ ∧ s.pins.cs = false ∧ s.pins.resetN = true

/-- The reset state meets the invariants the steps keep. That the parameters are the reference ones, and so well formed,
rests on log 1 and log 2, and that the memory spaces are empty, and so canonical, on log 8. -/
def Obligations.ResetMeetsInvariants : Prop :=
  State.reset.mem.wf = true ∧ gated State.reset.log.trace = true ∧ pinsOk State.reset = true ∧
  registersOk State.reset = true ∧ State.reset.tabs.sized = true ∧ State.reset.cfg.wf = true

/-- What the host reads of the state: the fields of STATUS (R34), the mirrors ST_SPEED, ST_FLAGS, ST_COUNT and
ST_FULL_PERIOD, the five windows on the table buffers, and 0 at every offset R33 does not list (R33). The numbers of SEQ,
ERR and CAUSE are those of R28, R261 and R265. That CHIP_BUSY shows a level of a moment between steps, asserted in a
refresh, is DEDUCED (log 3); a read is a function of the state (log 19). -/
def Obligations.StatusFieldPositions : Prop :=
  ∀ s : State,
    ((statusWord s).getLsbD 0 = s.ctl.running ∧ (statusWord s).getLsbD 1 = s.ctl.result ∧
      (statusWord s).extractLsb' 2 2 = 0 ∧ (statusWord s).extractLsb' 4 3 = s.ctl.err.code ∧
      (statusWord s).getLsbD 7 = (s.drv.hasBusy && pollLevel s) ∧
      (s.chip.engine.active = true → pollLevel s = true) ∧ (statusWord s).extractLsb' 8 3 = s.ctl.seq.code ∧
      (statusWord s).getLsbD 11 = s.ctl.inited ∧ (statusWord s).extractLsb' 12 4 = s.ctl.cause.code ∧
      hostRead s 0x01 = some (statusWord s).toNat) ∧
    ([Seq.idle, .powering, .transferring, .refreshing, .poweredOn, .poweringOff].map Seq.code = [0, 1, 2, 3, 4, 5] ∧
      [ErrClass.none, .configuration, .timeout, .data, .unspecified].map ErrClass.code = [0, 1, 2, 3, 7] ∧
      [Cause.none, .resolution, .speed, .rowIndex, .reservedOp, .greyLevels, .duration].map Cause.code =
        [0, 1, 2, 3, 4, 5, 6] ∧
      [Cause.fadeOut, .beforeInit, .greyAtSpeedZero].map Cause.code = [1, 2, 3]) ∧
    (hostRead s 0x09 = some s.drv.speed ∧ hostRead s 0x0A = some (stFlags s).toNat ∧
      (stFlags s).getLsbD 0 = s.drv.fr ∧ (stFlags s).getLsbD 1 = s.ctl.inited ∧
      (stFlags s).getLsbD 2 = s.drv.hasBusy ∧ (stFlags s).getLsbD 3 = s.drv.mirrorX ∧
      (stFlags s).getLsbD 4 = s.drv.mirrorY ∧ (stFlags s).extractLsb' 5 3 = 0 ∧
      hostRead s 0x0B = some (s.drv.updateCount % 2 ^ 32) ∧ hostRead s 0x0C = some s.drv.fullPeriod) ∧
    (∀ (k : Nat) (b : Byte),
      (k < 44 → s.tabs.vcom[k]? = some b → hostRead s (0x100 + k) = some b.toNat) ∧
      (k < 42 → s.tabs.ww[k]? = some b → hostRead s (0x140 + k) = some b.toNat) ∧
      (k < 42 → s.tabs.wb[k]? = some b → hostRead s (0x180 + k) = some b.toNat) ∧
      (k < 42 → s.tabs.bb[k]? = some b → hostRead s (0x1C0 + k) = some b.toNat) ∧
      (k < 42 → s.tabs.bw[k]? = some b → hostRead s (0x200 + k) = some b.toNat)) ∧
    (∀ off : Nat, (0x0C < off ∧ off < 0x100) ∨ (0x12B < off ∧ off < 0x140) ∨ (0x169 < off ∧ off < 0x180) ∨
      (0x1A9 < off ∧ off < 0x1C0) ∨ (0x1E9 < off ∧ off < 0x200) ∨ 0x229 < off → hostRead s off = some 0)

/-- What the host writes. A write of an operand register is read back up to its width and its reserved bits and changes that
register alone; one at a read-only or unlisted offset changes nothing (R33, R35). A step that takes such a write does it,
and a step that takes a fill of FB0, FB1 or LUM writes that byte of that space and leaves every other byte of every space
as it was (R60, R302). That a step takes them from a list when nothing runs, and the size of a space, are the model's
(log 6, log 8, log 23). -/
def Obligations.OperandRegistersReadBack : Prop :=
  (∀ (s : State) (v : Nat),
    hostRead (hostWrite 0x02 v s) 0x02 = some (v % 2 ^ (3 + s.cfg.fracBits)) ∧
    hostRead (hostWrite 0x03 v s) 0x03 = some (v % 16) ∧ hostRead (hostWrite 0x04 v s) 0x04 = some (v % 256) ∧
    hostRead (hostWrite 0x05 v s) 0x05 = some (v % 65536) ∧ hostRead (hostWrite 0x06 v s) 0x06 = some (v % 65536) ∧
    hostRead (hostWrite 0x07 v s) 0x07 = some (v % 8) ∧
    hostRead (hostWrite 0x08 v s) 0x08 = some (v % 4294967296) ∧
    hostWrite 0x02 v s = { s with regs := { s.regs with argSpeed := (hostWrite 0x02 v s).regs.argSpeed } } ∧
    hostWrite 0x03 v s = { s with regs := { s.regs with argFlags := (hostWrite 0x03 v s).regs.argFlags } } ∧
    hostWrite 0x04 v s = { s with regs := { s.regs with argG := (hostWrite 0x04 v s).regs.argG } } ∧
    hostWrite 0x05 v s = { s with regs := { s.regs with cfgWidth := (hostWrite 0x05 v s).regs.cfgWidth } } ∧
    hostWrite 0x06 v s = { s with regs := { s.regs with cfgHeight := (hostWrite 0x06 v s).regs.cfgHeight } } ∧
    hostWrite 0x07 v s = { s with regs := { s.regs with cfgFlags := (hostWrite 0x07 v s).regs.cfgFlags } } ∧
    hostWrite 0x08 v s = { s with regs := { s.regs with cfgFullPeriod := (hostWrite 0x08 v s).regs.cfgFullPeriod } } ∧
    ∀ off, (off = 1 ∨ 9 ≤ off) → hostWrite off v s = s) ∧
  ∀ (s : State) (rest : List HostAct), engineTurn s = false → s.ctl.todo = [] → s.ctl.running = false →
    (∀ off v, off ≠ 0 → s.env.hostIn = .write off v :: rest →
      step s = .next (hostWrite off v (hostTaken (turned s)))) ∧
    (∀ sp a b, s.mem.wf = true → a < hostSpaceSize s sp → s.env.hostIn = .fill sp a b :: rest →
      ∃ t, step s = .next t ∧ (t.mem.get sp.space).read a = b ∧
        (∀ (sp' : Space) (x : Nat), sp' ≠ sp.space ∨ x ≠ a → (t.mem.get sp').read x = (s.mem.get sp').read x) ∧
        t = { hostTaken (turned s) with mem := t.mem })
end

