-- ==== Sys2Proof/Laws/Decode.lean ====
section
/-!
SUPPORT. What the decoder answers at each port, and the fields of a pattern byte.
-/
namespace Sys2Proof

/-! ### Pattern bytes (spec/30_encoding.md R92, R98) -/

@[simp] theorem patCode_patByte_0 (c0 c1 c2 c3 : Code) : patCode (patByte c0 c1 c2 c3) 0 = c0 := by
  ext i; simp [patCode, patByte]; grind

@[simp] theorem patCode_patByte_1 (c0 c1 c2 c3 : Code) : patCode (patByte c0 c1 c2 c3) 1 = c1 := by
  ext i; simp [patCode, patByte]; grind

@[simp] theorem patCode_patByte_2 (c0 c1 c2 c3 : Code) : patCode (patByte c0 c1 c2 c3) 2 = c2 := by
  ext i; simp [patCode, patByte]; grind

@[simp] theorem patCode_patByte_3 (c0 c1 c2 c3 : Code) : patCode (patByte c0 c1 c2 c3) 3 = c3 := by
  ext i; simp [patCode, patByte]; grind

/-- A byte is the pattern byte of its four codes. -/
theorem patByte_patCode (b : Byte) : patByte (patCode b 0) (patCode b 1) (patCode b 2) (patCode b 3) = b := by
  have : patByte (patCode b 0) (patCode b 1) (patCode b 2) (patCode b 3) =
      (b.extractLsb' 6 2 ++ b.extractLsb' 4 2 ++ b.extractLsb' 2 2 ++ b.extractLsb' 0 2 : BitVec 8) := rfl
  rw [this]
  ext i hi
  simp only [BitVec.getElem_append, BitVec.getElem_extractLsb']
  grind

/-- Two pattern bytes are equal when their codes are. -/
theorem patByte_inj {a0 a1 a2 a3 b0 b1 b2 b3 : Code} :
    patByte a0 a1 a2 a3 = patByte b0 b1 b2 b3 ↔ a0 = b0 ∧ a1 = b1 ∧ a2 = b2 ∧ a3 = b3 := by
  constructor
  · intro h
    have h0 := congrArg (patCode · 0) h
    have h1 := congrArg (patCode · 1) h
    have h2 := congrArg (patCode · 2) h
    have h3 := congrArg (patCode · 3) h
    simp at h0 h1 h2 h3
    exact ⟨h0, h1, h2, h3⟩
  · rintro ⟨rfl, rfl, rfl, rfl⟩; rfl

@[simp] theorem rowBytes_length (c0 c1 c2 c3 : Code) (d0 d1 d2 d3 rep : Byte) :
    (rowBytes c0 c1 c2 c3 d0 d1 d2 d3 rep).length = 6 := rfl

/-! ### Opcodes (R111) -/

/-- The opcode of a name is found as that name, when the map is injective. -/
theorem Opcodes.find_byteOf {o : Opcodes} (h : o.wf = true) {c : Cmd} (hc : c ∈ Cmd.named) :
    o.find (o.byteOf c) = some c := by
  simp only [Opcodes.wf, decide_eq_true_eq] at h
  unfold Opcodes.find
  have key : ∀ l : List Cmd, (l.map o.byteOf).Nodup → c ∈ l → (l.find? fun k => o.byteOf k == o.byteOf c) = some c := by
    intro l
    induction l with
    | nil => simp
    | cons k l ih =>
      intro hn hm
      simp only [List.map_cons, List.nodup_cons, List.mem_map] at hn
      rcases List.mem_cons.mp hm with rfl | hm
      · simp
      · have : o.byteOf k ≠ o.byteOf c := fun e => hn.1 ⟨c, hm, e.symm⟩
        simp [this, ih hn.2 hm]
  exact key _ h hc

/-- A name that is found has that opcode. -/
theorem Opcodes.byteOf_of_find {o : Opcodes} {b : Byte} {c : Cmd} (h : o.find b = some c) :
    o.byteOf c = b ∧ c ∈ Cmd.named :=
  ⟨by simpa using List.find?_some h, List.mem_of_find?_eq_some h⟩

/-! ### The decoder -/

/-- A transaction of a named command with data of its length decodes to that command (R108 to R111). -/
theorem decodeBus_named {o : Opcodes} (h : o.wf = true) {c : Cmd} (hc : c ∈ Cmd.named) {data : List Byte}
    {nb : Nat} (hd : c.fits nb data = true) : decodeBus o nb (o.byteOf c :: data) = .ok (c.instr data) := by
  simp [decodeBus, Opcodes.find_byteOf h hc, hd]

/-- A transaction decodes to a named command with its own opcode and length, or to a raw command. -/
theorem decodeBus_cases (opc : Opcodes) (nb : Nat) (o : Byte) (data : List Byte) :
    (∃ c, opc.find o = some c ∧ c.fits nb data = true ∧ decodeBus opc nb (o :: data) = .ok (c.instr data)) ∨
    ((∀ c, opc.find o = some c → c.fits nb data = false) ∧ decodeBus opc nb (o :: data) = .ok (.cmdRaw o data)) := by
  cases hf : opc.find o with
  | none => exact .inr ⟨nofun, by simp [decodeBus, hf]⟩
  | some c =>
    cases hd : c.fits nb data with
    | true => exact .inl ⟨c, rfl, hd, by simp [decodeBus, hf, hd]⟩
    | false => exact .inr ⟨by rintro _ ⟨⟩; exact hd, by simp [decodeBus, hf, hd]⟩

/-- The five row shapes and the skipped row, of six bytes (R91, R95). -/
theorem decodeRow_cases (pol : Polarity) (l : Lane) (pat d0 d1 d2 d3 rep : Byte) :
    ∃ i, decodeRow pol l [pat, d0, d1, d2, d3, rep] = .ok i ∧
      ((rep = 0 ∧ i = .unusedRow (patCode pat 0) (patCode pat 1) (patCode pat 2) (patCode pat 3) d0 d1 d2 d3) ∨
       (rep ≠ 0 ∧ pat = patByte pol.black 0 0 0 ∧ d1 = 0 ∧ d2 = 0 ∧ d3 = 0 ∧ i = .settleRowBw d0 rep) ∨
       (rep ≠ 0 ∧ pat = patByte pol.black pol.white 0 0 ∧ d1 = d0 ∧ d2 = 0 ∧ d3 = 0 ∧ i = .pingpongRowBw d0 rep) ∨
       (rep ≠ 0 ∧ pat = patByte pol.white 0 0 0 ∧ d1 = 0 ∧ d2 = 0 ∧ d3 = 0 ∧ i = .finalRowBw d0 rep) ∨
       (rep = 1 ∧ pat = patByte pol.black 0 0 0 ∧ d1 = 0 ∧ d2 = 0 ∧ d3 = 0 ∧ i = .greyRow d0) ∨
       (rep ≠ 0 ∧
         i = .phaseRow (patCode pat 0) (patCode pat 1) (patCode pat 2) (patCode pat 3) d0 d1 d2 d3 rep)) := by
  by_cases hr : rep = 0
  · exact ⟨_, by simp only [decodeRow, hr, if_true], .inl ⟨hr, rfl⟩⟩
  · cases l
    case vcom =>
      exact ⟨_, by simp only [decodeRow, hr, if_false], .inr (.inr (.inr (.inr (.inr ⟨hr, rfl⟩))))⟩
    case bw =>
      simp only [decodeRow, hr, if_false]
      split
      · next h => exact ⟨_, rfl, .inr (.inl ⟨hr, h.1, h.2.1, h.2.2.1, h.2.2.2, rfl⟩)⟩
      · split
        · next h => exact ⟨_, rfl, .inr (.inr (.inl ⟨hr, h.1, h.2.1, h.2.2.1, h.2.2.2, rfl⟩))⟩
        · split
          · next h => exact ⟨_, rfl, .inr (.inr (.inr (.inl ⟨hr, h.1, h.2.1, h.2.2.1, h.2.2.2, rfl⟩)))⟩
          · exact ⟨_, rfl, .inr (.inr (.inr (.inr (.inr ⟨hr, rfl⟩))))⟩
    all_goals
      simp only [decodeRow, hr, if_false]
      split
      · next h =>
        exact ⟨_, rfl, .inr (.inr (.inr (.inr (.inl ⟨h.2.2.2.2, h.1, h.2.1, h.2.2.1, h.2.2.2.1, rfl⟩))))⟩
      · exact ⟨_, rfl, .inr (.inr (.inr (.inr (.inr ⟨hr, rfl⟩))))⟩

/-- A code decodes to one of the eight host instructions (R105, R107). -/
theorem hostOfCode_cases (b : Byte) :
    hostOfCode b = .init ∨ hostOfCode b = .setSpeed ∨ hostOfCode b = .update ∨ hostOfCode b = .greyRender ∨
    hostOfCode b = .fadeOut ∨ hostOfCode b = .waitOff ∨ hostOfCode b = .isBusy ∨ hostOfCode b = .hostReserved b := by
  unfold hostOfCode
  repeat' split
  all_goals simp

end Sys2Proof
end

