-- ==== Sys2Proof/Laws/State.lean ====
section
/-!
SUPPORT. One lemma per field per update of the shared operations: what each leaves as it was, and what it writes.
-/
namespace Sys2Proof.Machine

/-! ### accept -/

@[simp] theorem accept_cfg (op : Option HostOp) (s : State) : (accept op s).cfg = s.cfg := rfl
@[simp] theorem accept_regs (op : Option HostOp) (s : State) : (accept op s).regs = s.regs := rfl
@[simp] theorem accept_drv (op : Option HostOp) (s : State) : (accept op s).drv = s.drv := rfl
@[simp] theorem accept_tabs (op : Option HostOp) (s : State) : (accept op s).tabs = s.tabs := rfl
@[simp] theorem accept_grey (op : Option HostOp) (s : State) : (accept op s).grey = s.grey := rfl
@[simp] theorem accept_mem (op : Option HostOp) (s : State) : (accept op s).mem = s.mem := rfl
@[simp] theorem accept_pins (op : Option HostOp) (s : State) : (accept op s).pins = s.pins := rfl
@[simp] theorem accept_chip (op : Option HostOp) (s : State) : (accept op s).chip = s.chip := rfl
@[simp] theorem accept_env (op : Option HostOp) (s : State) : (accept op s).env = s.env := rfl
@[simp] theorem accept_log (op : Option HostOp) (s : State) : (accept op s).log = s.log := rfl

@[simp] theorem accept_ctl_seq (op : Option HostOp) (s : State) : (accept op s).ctl.seq = s.ctl.seq := rfl
@[simp] theorem accept_ctl_op (op : Option HostOp) (s : State) : (accept op s).ctl.op = op := rfl
@[simp] theorem accept_ctl_pos (op : Option HostOp) (s : State) : (accept op s).ctl.pos = 0 := rfl
@[simp] theorem accept_ctl_todo (op : Option HostOp) (s : State) : (accept op s).ctl.todo = [] := rfl
@[simp] theorem accept_ctl_polls (op : Option HostOp) (s : State) : (accept op s).ctl.polls = 0 := rfl
@[simp] theorem accept_ctl_running (op : Option HostOp) (s : State) : (accept op s).ctl.running = true := rfl
@[simp] theorem accept_ctl_result (op : Option HostOp) (s : State) : (accept op s).ctl.result = s.ctl.result := rfl
@[simp] theorem accept_ctl_err (op : Option HostOp) (s : State) : (accept op s).ctl.err = .none := rfl
@[simp] theorem accept_ctl_cause (op : Option HostOp) (s : State) : (accept op s).ctl.cause = .none := rfl
@[simp] theorem accept_ctl_inited (op : Option HostOp) (s : State) : (accept op s).ctl.inited = s.ctl.inited := rfl
@[simp] theorem accept_ctl_inj (op : Option HostOp) (s : State) : (accept op s).ctl.inj = s.ctl.inj := rfl
@[simp] theorem accept_ctl_any (op : Option HostOp) (s : State) : (accept op s).ctl.any = s.ctl.any := rfl

/-! ### ret -/

@[simp] theorem ret_cfg (v : Bool) (s : State) : (ret v s).cfg = s.cfg := rfl
@[simp] theorem ret_regs (v : Bool) (s : State) : (ret v s).regs = s.regs := rfl
@[simp] theorem ret_drv (v : Bool) (s : State) : (ret v s).drv = s.drv := rfl
@[simp] theorem ret_tabs (v : Bool) (s : State) : (ret v s).tabs = s.tabs := rfl
@[simp] theorem ret_grey (v : Bool) (s : State) : (ret v s).grey = s.grey := rfl
@[simp] theorem ret_mem (v : Bool) (s : State) : (ret v s).mem = s.mem := rfl
@[simp] theorem ret_pins (v : Bool) (s : State) : (ret v s).pins = s.pins := rfl
@[simp] theorem ret_chip (v : Bool) (s : State) : (ret v s).chip = s.chip := rfl
@[simp] theorem ret_env (v : Bool) (s : State) : (ret v s).env = s.env := rfl

@[simp] theorem ret_ctl_seq (v : Bool) (s : State) : (ret v s).ctl.seq = s.ctl.seq := rfl
@[simp] theorem ret_ctl_op (v : Bool) (s : State) : (ret v s).ctl.op = none := rfl
@[simp] theorem ret_ctl_pos (v : Bool) (s : State) : (ret v s).ctl.pos = 0 := rfl
@[simp] theorem ret_ctl_todo (v : Bool) (s : State) : (ret v s).ctl.todo = [] := rfl
@[simp] theorem ret_ctl_polls (v : Bool) (s : State) : (ret v s).ctl.polls = 0 := rfl
@[simp] theorem ret_ctl_running (v : Bool) (s : State) : (ret v s).ctl.running = false := rfl
@[simp] theorem ret_ctl_result (v : Bool) (s : State) : (ret v s).ctl.result = v := rfl
@[simp] theorem ret_ctl_err (v : Bool) (s : State) : (ret v s).ctl.err = s.ctl.err := rfl
@[simp] theorem ret_ctl_cause (v : Bool) (s : State) : (ret v s).ctl.cause = s.ctl.cause := rfl
@[simp] theorem ret_ctl_inited (v : Bool) (s : State) : (ret v s).ctl.inited = s.ctl.inited := rfl
@[simp] theorem ret_ctl_inj (v : Bool) (s : State) : (ret v s).ctl.inj = s.ctl.inj := rfl
@[simp] theorem ret_ctl_any (v : Bool) (s : State) : (ret v s).ctl.any = s.ctl.any := rfl

/-! ### raise -/

@[simp] theorem raise_cfg (e : ErrClass) (c : Cause) (s : State) : (raise e c s).cfg = s.cfg := rfl
@[simp] theorem raise_regs (e : ErrClass) (c : Cause) (s : State) : (raise e c s).regs = s.regs := rfl
@[simp] theorem raise_drv (e : ErrClass) (c : Cause) (s : State) : (raise e c s).drv = s.drv := rfl
@[simp] theorem raise_tabs (e : ErrClass) (c : Cause) (s : State) : (raise e c s).tabs = s.tabs := rfl
@[simp] theorem raise_grey (e : ErrClass) (c : Cause) (s : State) : (raise e c s).grey = s.grey := rfl
@[simp] theorem raise_mem (e : ErrClass) (c : Cause) (s : State) : (raise e c s).mem = s.mem := rfl
@[simp] theorem raise_pins (e : ErrClass) (c : Cause) (s : State) : (raise e c s).pins = s.pins := rfl
@[simp] theorem raise_chip (e : ErrClass) (c : Cause) (s : State) : (raise e c s).chip = s.chip := rfl
@[simp] theorem raise_env (e : ErrClass) (c : Cause) (s : State) : (raise e c s).env = s.env := rfl

@[simp] theorem raise_ctl_seq (e : ErrClass) (c : Cause) (s : State) : (raise e c s).ctl.seq = s.ctl.seq := rfl
@[simp] theorem raise_ctl_op (e : ErrClass) (c : Cause) (s : State) : (raise e c s).ctl.op = none := rfl
@[simp] theorem raise_ctl_pos (e : ErrClass) (c : Cause) (s : State) : (raise e c s).ctl.pos = 0 := rfl
@[simp] theorem raise_ctl_todo (e : ErrClass) (c : Cause) (s : State) : (raise e c s).ctl.todo = [] := rfl
@[simp] theorem raise_ctl_polls (e : ErrClass) (c : Cause) (s : State) : (raise e c s).ctl.polls = 0 := rfl
@[simp] theorem raise_ctl_running (e : ErrClass) (c : Cause) (s : State) : (raise e c s).ctl.running = false := rfl
@[simp] theorem raise_ctl_result (e : ErrClass) (c : Cause) (s : State) : (raise e c s).ctl.result = false := rfl
@[simp] theorem raise_ctl_err (e : ErrClass) (c : Cause) (s : State) : (raise e c s).ctl.err = e := rfl
@[simp] theorem raise_ctl_cause (e : ErrClass) (c : Cause) (s : State) : (raise e c s).ctl.cause = c := rfl
@[simp] theorem raise_ctl_inited (e : ErrClass) (c : Cause) (s : State) : (raise e c s).ctl.inited = s.ctl.inited := rfl
@[simp] theorem raise_ctl_inj (e : ErrClass) (c : Cause) (s : State) : (raise e c s).ctl.inj = s.ctl.inj := rfl
@[simp] theorem raise_ctl_any (e : ErrClass) (c : Cause) (s : State) : (raise e c s).ctl.any = s.ctl.any := rfl

@[simp] theorem ret_trace (v : Bool) (s : State) : (ret v s).log.trace = s.log.trace := rfl
@[simp] theorem ret_wire (v : Bool) (s : State) : (ret v s).log.wire = s.log.wire := rfl
@[simp] theorem ret_results (v : Bool) (s : State) :
    (ret v s).log.results = s.log.results ++ [⟨s.ctl.op, v, s.ctl.err, s.ctl.cause⟩] := rfl

@[simp] theorem raise_trace (e : ErrClass) (c : Cause) (s : State) : (raise e c s).log.trace = s.log.trace := rfl
@[simp] theorem raise_wire (e : ErrClass) (c : Cause) (s : State) : (raise e c s).log.wire = s.log.wire := rfl
@[simp] theorem raise_results (e : ErrClass) (c : Cause) (s : State) :
    (raise e c s).log.results = s.log.results ++ [⟨s.ctl.op, false, e, c⟩] := rfl

/-! ### start -/

@[simp] theorem start_cfg (l : List Action) (s : State) : (start l s).cfg = s.cfg := rfl
@[simp] theorem start_regs (l : List Action) (s : State) : (start l s).regs = s.regs := rfl
@[simp] theorem start_drv (l : List Action) (s : State) : (start l s).drv = s.drv := rfl
@[simp] theorem start_tabs (l : List Action) (s : State) : (start l s).tabs = s.tabs := rfl
@[simp] theorem start_grey (l : List Action) (s : State) : (start l s).grey = s.grey := rfl
@[simp] theorem start_mem (l : List Action) (s : State) : (start l s).mem = s.mem := rfl
@[simp] theorem start_pins (l : List Action) (s : State) : (start l s).pins = s.pins := rfl
@[simp] theorem start_chip (l : List Action) (s : State) : (start l s).chip = s.chip := rfl
@[simp] theorem start_env (l : List Action) (s : State) : (start l s).env = s.env := rfl
@[simp] theorem start_log (l : List Action) (s : State) : (start l s).log = s.log := rfl

@[simp] theorem start_ctl_seq (l : List Action) (s : State) : (start l s).ctl.seq = s.ctl.seq := rfl
@[simp] theorem start_ctl_op (l : List Action) (s : State) : (start l s).ctl.op = s.ctl.op := rfl
@[simp] theorem start_ctl_pos (l : List Action) (s : State) : (start l s).ctl.pos = s.ctl.pos := rfl
@[simp] theorem start_ctl_todo (l : List Action) (s : State) : (start l s).ctl.todo = l := rfl
@[simp] theorem start_ctl_polls (l : List Action) (s : State) : (start l s).ctl.polls = s.ctl.polls := rfl
@[simp] theorem start_ctl_running (l : List Action) (s : State) : (start l s).ctl.running = s.ctl.running := rfl
@[simp] theorem start_ctl_result (l : List Action) (s : State) : (start l s).ctl.result = s.ctl.result := rfl
@[simp] theorem start_ctl_err (l : List Action) (s : State) : (start l s).ctl.err = s.ctl.err := rfl
@[simp] theorem start_ctl_cause (l : List Action) (s : State) : (start l s).ctl.cause = s.ctl.cause := rfl
@[simp] theorem start_ctl_inited (l : List Action) (s : State) : (start l s).ctl.inited = s.ctl.inited := rfl
@[simp] theorem start_ctl_inj (l : List Action) (s : State) : (start l s).ctl.inj = s.ctl.inj := rfl
@[simp] theorem start_ctl_any (l : List Action) (s : State) : (start l s).ctl.any = s.ctl.any := rfl

/-! ### advance -/

@[simp] theorem advance_cfg (s : State) : (advance s).cfg = s.cfg := rfl
@[simp] theorem advance_regs (s : State) : (advance s).regs = s.regs := rfl
@[simp] theorem advance_drv (s : State) : (advance s).drv = s.drv := rfl
@[simp] theorem advance_tabs (s : State) : (advance s).tabs = s.tabs := rfl
@[simp] theorem advance_grey (s : State) : (advance s).grey = s.grey := rfl
@[simp] theorem advance_mem (s : State) : (advance s).mem = s.mem := rfl
@[simp] theorem advance_pins (s : State) : (advance s).pins = s.pins := rfl
@[simp] theorem advance_chip (s : State) : (advance s).chip = s.chip := rfl
@[simp] theorem advance_env (s : State) : (advance s).env = s.env := rfl
@[simp] theorem advance_log (s : State) : (advance s).log = s.log := rfl

@[simp] theorem advance_ctl_seq (s : State) : (advance s).ctl.seq = s.ctl.seq := rfl
@[simp] theorem advance_ctl_op (s : State) : (advance s).ctl.op = s.ctl.op := rfl
@[simp] theorem advance_ctl_pos (s : State) : (advance s).ctl.pos = s.ctl.pos + 1 := rfl
@[simp] theorem advance_ctl_todo (s : State) : (advance s).ctl.todo = s.ctl.todo.tail := rfl
@[simp] theorem advance_ctl_polls (s : State) : (advance s).ctl.polls = 0 := rfl
@[simp] theorem advance_ctl_running (s : State) : (advance s).ctl.running = s.ctl.running := rfl
@[simp] theorem advance_ctl_result (s : State) : (advance s).ctl.result = s.ctl.result := rfl
@[simp] theorem advance_ctl_err (s : State) : (advance s).ctl.err = s.ctl.err := rfl
@[simp] theorem advance_ctl_cause (s : State) : (advance s).ctl.cause = s.ctl.cause := rfl
@[simp] theorem advance_ctl_inited (s : State) : (advance s).ctl.inited = s.ctl.inited := rfl
@[simp] theorem advance_ctl_inj (s : State) : (advance s).ctl.inj = s.ctl.inj := rfl
@[simp] theorem advance_ctl_any (s : State) : (advance s).ctl.any = s.ctl.any := rfl

theorem advance_ctl (s : State) : (advance s).ctl = s.ctl.next := rfl

/-! ### logEvent -/

@[simp] theorem logEvent_cfg (e : Event) (s : State) : (logEvent e s).cfg = s.cfg := rfl
@[simp] theorem logEvent_regs (e : Event) (s : State) : (logEvent e s).regs = s.regs := rfl
@[simp] theorem logEvent_drv (e : Event) (s : State) : (logEvent e s).drv = s.drv := rfl
@[simp] theorem logEvent_ctl (e : Event) (s : State) : (logEvent e s).ctl = s.ctl := rfl
@[simp] theorem logEvent_tabs (e : Event) (s : State) : (logEvent e s).tabs = s.tabs := rfl
@[simp] theorem logEvent_grey (e : Event) (s : State) : (logEvent e s).grey = s.grey := rfl
@[simp] theorem logEvent_mem (e : Event) (s : State) : (logEvent e s).mem = s.mem := rfl
@[simp] theorem logEvent_pins (e : Event) (s : State) : (logEvent e s).pins = s.pins := rfl
@[simp] theorem logEvent_chip (e : Event) (s : State) : (logEvent e s).chip = s.chip := rfl
@[simp] theorem logEvent_env (e : Event) (s : State) : (logEvent e s).env = s.env := rfl

@[simp] theorem logEvent_trace (e : Event) (s : State) : (logEvent e s).log.trace = s.log.trace ++ [e] := rfl
@[simp] theorem logEvent_wire (e : Event) (s : State) : (logEvent e s).log.wire = s.log.wire := rfl
@[simp] theorem logEvent_results (e : Event) (s : State) : (logEvent e s).log.results = s.log.results := rfl

/-! ### takeFree -/

@[simp] theorem takeFree_cfg (k : Nat) (s : State) : (takeFree k s).cfg = s.cfg := rfl
@[simp] theorem takeFree_regs (k : Nat) (s : State) : (takeFree k s).regs = s.regs := rfl
@[simp] theorem takeFree_drv (k : Nat) (s : State) : (takeFree k s).drv = s.drv := rfl
@[simp] theorem takeFree_ctl (k : Nat) (s : State) : (takeFree k s).ctl = s.ctl := rfl
@[simp] theorem takeFree_tabs (k : Nat) (s : State) : (takeFree k s).tabs = s.tabs := rfl
@[simp] theorem takeFree_grey (k : Nat) (s : State) : (takeFree k s).grey = s.grey := rfl
@[simp] theorem takeFree_mem (k : Nat) (s : State) : (takeFree k s).mem = s.mem := rfl
@[simp] theorem takeFree_pins (k : Nat) (s : State) : (takeFree k s).pins = s.pins := rfl
@[simp] theorem takeFree_chip (k : Nat) (s : State) : (takeFree k s).chip = s.chip := rfl
@[simp] theorem takeFree_log (k : Nat) (s : State) : (takeFree k s).log = s.log := rfl

@[simp] theorem takeFree_hostIn (k : Nat) (s : State) : (takeFree k s).env.hostIn = s.env.hostIn := rfl
@[simp] theorem takeFree_busyFeed (k : Nat) (s : State) : (takeFree k s).env.busyFeed = s.env.busyFeed := rfl
@[simp] theorem takeFree_pollFeed (k : Nat) (s : State) : (takeFree k s).env.pollFeed = s.env.pollFeed := rfl
@[simp] theorem takeFree_turnFeed (k : Nat) (s : State) : (takeFree k s).env.turnFeed = s.env.turnFeed := rfl
@[simp] theorem takeFree_moment (k : Nat) (s : State) : (takeFree k s).env.moment = s.env.moment := rfl
@[simp] theorem takeFree_free (k : Nat) (s : State) : (takeFree k s).env.free = s.env.free + k := rfl

/-! ### emit -/

@[simp] theorem emit_cfg (c : Cmd) (d : List Byte) (s : State) : (emit c d s).cfg = s.cfg := rfl
@[simp] theorem emit_regs (c : Cmd) (d : List Byte) (s : State) : (emit c d s).regs = s.regs := rfl
@[simp] theorem emit_drv (c : Cmd) (d : List Byte) (s : State) : (emit c d s).drv = s.drv := rfl
@[simp] theorem emit_ctl (c : Cmd) (d : List Byte) (s : State) : (emit c d s).ctl = s.ctl := rfl
@[simp] theorem emit_tabs (c : Cmd) (d : List Byte) (s : State) : (emit c d s).tabs = s.tabs := rfl
@[simp] theorem emit_grey (c : Cmd) (d : List Byte) (s : State) : (emit c d s).grey = s.grey := rfl
@[simp] theorem emit_mem (c : Cmd) (d : List Byte) (s : State) : (emit c d s).mem = s.mem := rfl
@[simp] theorem emit_chip (c : Cmd) (d : List Byte) (s : State) : (emit c d s).chip = s.chip := rfl
@[simp] theorem emit_env (c : Cmd) (d : List Byte) (s : State) : (emit c d s).env = s.env := rfl

@[simp] theorem emit_trace (c : Cmd) (d : List Byte) (s : State) :
    (emit c d s).log.trace = s.log.trace ++ [.tx s.drv.hasBusy c d] := rfl
@[simp] theorem emit_wire (c : Cmd) (d : List Byte) (s : State) :
    (emit c d s).log.wire = s.log.wire ++ pinFrame (s.cfg.opc.byteOf c) d := rfl
@[simp] theorem emit_results (c : Cmd) (d : List Byte) (s : State) : (emit c d s).log.results = s.log.results := rfl
@[simp] theorem emit_cs (c : Cmd) (d : List Byte) (s : State) : (emit c d s).pins.cs = false := rfl
@[simp] theorem emit_resetN (c : Cmd) (d : List Byte) (s : State) : (emit c d s).pins.resetN = s.pins.resetN := rfl

/-! ### hostTaken -/

@[simp] theorem hostTaken_cfg (s : State) : (hostTaken s).cfg = s.cfg := rfl
@[simp] theorem hostTaken_regs (s : State) : (hostTaken s).regs = s.regs := rfl
@[simp] theorem hostTaken_drv (s : State) : (hostTaken s).drv = s.drv := rfl
@[simp] theorem hostTaken_ctl (s : State) : (hostTaken s).ctl = s.ctl := rfl
@[simp] theorem hostTaken_tabs (s : State) : (hostTaken s).tabs = s.tabs := rfl
@[simp] theorem hostTaken_grey (s : State) : (hostTaken s).grey = s.grey := rfl
@[simp] theorem hostTaken_mem (s : State) : (hostTaken s).mem = s.mem := rfl
@[simp] theorem hostTaken_pins (s : State) : (hostTaken s).pins = s.pins := rfl
@[simp] theorem hostTaken_chip (s : State) : (hostTaken s).chip = s.chip := rfl
@[simp] theorem hostTaken_log (s : State) : (hostTaken s).log = s.log := rfl

@[simp] theorem hostTaken_hostIn (s : State) : (hostTaken s).env.hostIn = s.env.hostIn.tail := rfl

/-! ### writeCmd -/

@[simp] theorem writeCmd_cfg (v : Nat) (s : State) : (writeCmd v s).cfg = s.cfg := rfl
@[simp] theorem writeCmd_drv (v : Nat) (s : State) : (writeCmd v s).drv = s.drv := rfl
@[simp] theorem writeCmd_ctl (v : Nat) (s : State) : (writeCmd v s).ctl = s.ctl := rfl
@[simp] theorem writeCmd_tabs (v : Nat) (s : State) : (writeCmd v s).tabs = s.tabs := rfl
@[simp] theorem writeCmd_grey (v : Nat) (s : State) : (writeCmd v s).grey = s.grey := rfl
@[simp] theorem writeCmd_mem (v : Nat) (s : State) : (writeCmd v s).mem = s.mem := rfl
@[simp] theorem writeCmd_pins (v : Nat) (s : State) : (writeCmd v s).pins = s.pins := rfl
@[simp] theorem writeCmd_chip (v : Nat) (s : State) : (writeCmd v s).chip = s.chip := rfl
@[simp] theorem writeCmd_env (v : Nat) (s : State) : (writeCmd v s).env = s.env := rfl
@[simp] theorem writeCmd_log (v : Nat) (s : State) : (writeCmd v s).log = s.log := rfl

/-! ### hostWrite -/

@[simp] theorem hostWrite_cfg (off v : Nat) (s : State) : (hostWrite off v s).cfg = s.cfg := rfl
@[simp] theorem hostWrite_drv (off v : Nat) (s : State) : (hostWrite off v s).drv = s.drv := rfl
@[simp] theorem hostWrite_ctl (off v : Nat) (s : State) : (hostWrite off v s).ctl = s.ctl := rfl
@[simp] theorem hostWrite_tabs (off v : Nat) (s : State) : (hostWrite off v s).tabs = s.tabs := rfl
@[simp] theorem hostWrite_grey (off v : Nat) (s : State) : (hostWrite off v s).grey = s.grey := rfl
@[simp] theorem hostWrite_mem (off v : Nat) (s : State) : (hostWrite off v s).mem = s.mem := rfl
@[simp] theorem hostWrite_pins (off v : Nat) (s : State) : (hostWrite off v s).pins = s.pins := rfl
@[simp] theorem hostWrite_chip (off v : Nat) (s : State) : (hostWrite off v s).chip = s.chip := rfl
@[simp] theorem hostWrite_env (off v : Nat) (s : State) : (hostWrite off v s).env = s.env := rfl
@[simp] theorem hostWrite_log (off v : Nat) (s : State) : (hostWrite off v s).log = s.log := rfl

/-! ### turned -/

@[simp] theorem turned_cfg (s : State) : (turned s).cfg = s.cfg := rfl
@[simp] theorem turned_regs (s : State) : (turned s).regs = s.regs := rfl
@[simp] theorem turned_drv (s : State) : (turned s).drv = s.drv := rfl
@[simp] theorem turned_ctl (s : State) : (turned s).ctl = s.ctl := rfl
@[simp] theorem turned_tabs (s : State) : (turned s).tabs = s.tabs := rfl
@[simp] theorem turned_grey (s : State) : (turned s).grey = s.grey := rfl
@[simp] theorem turned_mem (s : State) : (turned s).mem = s.mem := rfl
@[simp] theorem turned_pins (s : State) : (turned s).pins = s.pins := rfl
@[simp] theorem turned_chip (s : State) : (turned s).chip = s.chip := rfl
@[simp] theorem turned_log (s : State) : (turned s).log = s.log := rfl

@[simp] theorem turned_hostIn (s : State) : (turned s).env.hostIn = s.env.hostIn := rfl
@[simp] theorem turned_busyFeed (s : State) : (turned s).env.busyFeed = s.env.busyFeed.tail := rfl
@[simp] theorem turned_pollFeed (s : State) : (turned s).env.pollFeed = s.env.pollFeed.tail := rfl
@[simp] theorem turned_turnFeed (s : State) : (turned s).env.turnFeed =
    if s.chip.engine.active then s.env.turnFeed.tail else s.env.turnFeed := rfl
@[simp] theorem turned_moment (s : State) : (turned s).env.moment = s.env.moment + 1 := rfl
@[simp] theorem turned_free (s : State) : (turned s).env.free = s.env.free := rfl

/-! ### afterIsBusy -/

@[simp] theorem afterIsBusy_cfg (s : State) : (afterIsBusy s).cfg = s.cfg := by
  unfold afterIsBusy; split <;> simp
@[simp] theorem afterIsBusy_regs (s : State) : (afterIsBusy s).regs = s.regs := by
  unfold afterIsBusy; split <;> simp
@[simp] theorem afterIsBusy_drv (s : State) : (afterIsBusy s).drv = s.drv := by
  unfold afterIsBusy; split <;> simp
@[simp] theorem afterIsBusy_ctl (s : State) : (afterIsBusy s).ctl = s.ctl := by
  unfold afterIsBusy; split <;> simp
@[simp] theorem afterIsBusy_tabs (s : State) : (afterIsBusy s).tabs = s.tabs := by
  unfold afterIsBusy; split <;> simp
@[simp] theorem afterIsBusy_grey (s : State) : (afterIsBusy s).grey = s.grey := by
  unfold afterIsBusy; split <;> simp
@[simp] theorem afterIsBusy_mem (s : State) : (afterIsBusy s).mem = s.mem := by
  unfold afterIsBusy; split <;> simp
@[simp] theorem afterIsBusy_pins (s : State) : (afterIsBusy s).pins = s.pins := by
  unfold afterIsBusy; split <;> simp
@[simp] theorem afterIsBusy_chip (s : State) : (afterIsBusy s).chip = s.chip := by
  unfold afterIsBusy; split <;> simp
@[simp] theorem afterIsBusy_env (s : State) : (afterIsBusy s).env = s.env := by
  unfold afterIsBusy; split <;> simp

@[simp] theorem afterIsBusy_wire (s : State) : (afterIsBusy s).log.wire = s.log.wire := by
  unfold afterIsBusy; split <;> simp
@[simp] theorem afterIsBusy_results (s : State) : (afterIsBusy s).log.results = s.log.results := by
  unfold afterIsBusy; split <;> simp
theorem afterIsBusy_trace (s : State) :
    (afterIsBusy s).log.trace = s.log.trace ++ (if s.drv.hasBusy then [.sample (busyLevel s)] else []) := by
  unfold afterIsBusy; split <;> simp

/-! ### held -/

@[simp] theorem held_cfg (s : State) : (held s).cfg = s.cfg := by
  unfold held; split <;> [(split <;> rfl); rfl]
@[simp] theorem held_regs (s : State) : (held s).regs = s.regs := by
  unfold held; split <;> [(split <;> rfl); rfl]
@[simp] theorem held_drv (s : State) : (held s).drv = s.drv := by
  unfold held; split <;> [(split <;> rfl); rfl]
@[simp] theorem held_tabs (s : State) : (held s).tabs = s.tabs := by
  unfold held; split <;> [(split <;> rfl); rfl]
@[simp] theorem held_grey (s : State) : (held s).grey = s.grey := by
  unfold held; split <;> [(split <;> rfl); rfl]
@[simp] theorem held_mem (s : State) : (held s).mem = s.mem := by
  unfold held; split <;> [(split <;> rfl); rfl]
@[simp] theorem held_pins (s : State) : (held s).pins = s.pins := by
  unfold held; split <;> [(split <;> rfl); rfl]
@[simp] theorem held_chip (s : State) : (held s).chip = s.chip := by
  unfold held; split <;> [(split <;> rfl); rfl]
@[simp] theorem held_env (s : State) : (held s).env = s.env := by
  unfold held; split <;> [(split <;> rfl); rfl]

@[simp] theorem held_trace (s : State) : (held s).log.trace = s.log.trace := by
  unfold held; split <;> [(split <;> rfl); rfl]
@[simp] theorem held_wire (s : State) : (held s).log.wire = s.log.wire := by
  unfold held; split <;> [(split <;> rfl); rfl]

/-! ### buildMasks -/

@[simp] theorem buildMasks_cfg (g : Nat) (s : State) : (buildMasks g s).cfg = s.cfg := rfl
@[simp] theorem buildMasks_regs (g : Nat) (s : State) : (buildMasks g s).regs = s.regs := rfl
@[simp] theorem buildMasks_drv (g : Nat) (s : State) : (buildMasks g s).drv = s.drv := rfl
@[simp] theorem buildMasks_tabs (g : Nat) (s : State) : (buildMasks g s).tabs = s.tabs := rfl
@[simp] theorem buildMasks_grey (g : Nat) (s : State) : (buildMasks g s).grey = s.grey := rfl
@[simp] theorem buildMasks_pins (g : Nat) (s : State) : (buildMasks g s).pins = s.pins := rfl
@[simp] theorem buildMasks_chip (g : Nat) (s : State) : (buildMasks g s).chip = s.chip := rfl
@[simp] theorem buildMasks_env (g : Nat) (s : State) : (buildMasks g s).env = s.env := rfl
@[simp] theorem buildMasks_log (g : Nat) (s : State) : (buildMasks g s).log = s.log := rfl

/-! ### setCounts -/

@[simp] theorem setCounts_cfg (g : Nat) (s : State) : (setCounts g s).cfg = s.cfg := rfl
@[simp] theorem setCounts_regs (g : Nat) (s : State) : (setCounts g s).regs = s.regs := rfl
@[simp] theorem setCounts_drv (g : Nat) (s : State) : (setCounts g s).drv = s.drv := rfl
@[simp] theorem setCounts_ctl (g : Nat) (s : State) : (setCounts g s).ctl = s.ctl := rfl
@[simp] theorem setCounts_tabs (g : Nat) (s : State) : (setCounts g s).tabs = s.tabs := rfl
@[simp] theorem setCounts_mem (g : Nat) (s : State) : (setCounts g s).mem = s.mem := rfl
@[simp] theorem setCounts_pins (g : Nat) (s : State) : (setCounts g s).pins = s.pins := rfl
@[simp] theorem setCounts_chip (g : Nat) (s : State) : (setCounts g s).chip = s.chip := rfl
@[simp] theorem setCounts_env (g : Nat) (s : State) : (setCounts g s).env = s.env := rfl
@[simp] theorem setCounts_log (g : Nat) (s : State) : (setCounts g s).log = s.log := rfl

/-! ### latchConfig -/

@[simp] theorem latchConfig_cfg (s : State) : (latchConfig s).cfg = s.cfg := rfl
@[simp] theorem latchConfig_regs (s : State) : (latchConfig s).regs = s.regs := rfl
@[simp] theorem latchConfig_ctl (s : State) : (latchConfig s).ctl = s.ctl := rfl
@[simp] theorem latchConfig_tabs (s : State) : (latchConfig s).tabs = s.tabs := rfl
@[simp] theorem latchConfig_grey (s : State) : (latchConfig s).grey = s.grey := rfl
@[simp] theorem latchConfig_mem (s : State) : (latchConfig s).mem = s.mem := rfl
@[simp] theorem latchConfig_pins (s : State) : (latchConfig s).pins = s.pins := rfl
@[simp] theorem latchConfig_chip (s : State) : (latchConfig s).chip = s.chip := rfl
@[simp] theorem latchConfig_env (s : State) : (latchConfig s).env = s.env := rfl
@[simp] theorem latchConfig_log (s : State) : (latchConfig s).log = s.log := rfl

/-! ### latchSpeed -/

@[simp] theorem latchSpeed_cfg (s : State) : (latchSpeed s).cfg = s.cfg := rfl
@[simp] theorem latchSpeed_regs (s : State) : (latchSpeed s).regs = s.regs := rfl
@[simp] theorem latchSpeed_ctl (s : State) : (latchSpeed s).ctl = s.ctl := rfl
@[simp] theorem latchSpeed_tabs (s : State) : (latchSpeed s).tabs = s.tabs := rfl
@[simp] theorem latchSpeed_grey (s : State) : (latchSpeed s).grey = s.grey := rfl
@[simp] theorem latchSpeed_mem (s : State) : (latchSpeed s).mem = s.mem := rfl
@[simp] theorem latchSpeed_pins (s : State) : (latchSpeed s).pins = s.pins := rfl
@[simp] theorem latchSpeed_chip (s : State) : (latchSpeed s).chip = s.chip := rfl
@[simp] theorem latchSpeed_env (s : State) : (latchSpeed s).env = s.env := rfl
@[simp] theorem latchSpeed_log (s : State) : (latchSpeed s).log = s.log := rfl

/-! ### rowDone -/

@[simp] theorem rowDone_cfg (s : State) : (rowDone s).cfg = s.cfg := by
  unfold rowDone; split <;> rfl
@[simp] theorem rowDone_regs (s : State) : (rowDone s).regs = s.regs := by
  unfold rowDone; split <;> rfl
@[simp] theorem rowDone_drv (s : State) : (rowDone s).drv = s.drv := by
  unfold rowDone; split <;> rfl
@[simp] theorem rowDone_ctl (s : State) : (rowDone s).ctl = s.ctl := by
  unfold rowDone; split <;> rfl
@[simp] theorem rowDone_tabs (s : State) : (rowDone s).tabs = s.tabs := by
  unfold rowDone; split <;> rfl
@[simp] theorem rowDone_grey (s : State) : (rowDone s).grey = s.grey := by
  unfold rowDone; split <;> rfl
@[simp] theorem rowDone_mem (s : State) : (rowDone s).mem = s.mem := by
  unfold rowDone; split <;> rfl
@[simp] theorem rowDone_pins (s : State) : (rowDone s).pins = s.pins := by
  unfold rowDone; split <;> rfl
@[simp] theorem rowDone_log (s : State) : (rowDone s).log = s.log := by
  unfold rowDone; split <;> rfl

/-! ### skipRow -/

@[simp] theorem skipRow_cfg (s : State) : (skipRow s).cfg = s.cfg := by simp [skipRow]
@[simp] theorem skipRow_regs (s : State) : (skipRow s).regs = s.regs := by simp [skipRow]
@[simp] theorem skipRow_drv (s : State) : (skipRow s).drv = s.drv := by simp [skipRow]
@[simp] theorem skipRow_ctl (s : State) : (skipRow s).ctl = s.ctl := by simp [skipRow]
@[simp] theorem skipRow_tabs (s : State) : (skipRow s).tabs = s.tabs := by simp [skipRow]
@[simp] theorem skipRow_grey (s : State) : (skipRow s).grey = s.grey := by simp [skipRow]
@[simp] theorem skipRow_mem (s : State) : (skipRow s).mem = s.mem := by simp [skipRow]
@[simp] theorem skipRow_pins (s : State) : (skipRow s).pins = s.pins := by simp [skipRow]
@[simp] theorem skipRow_log (s : State) : (skipRow s).log = s.log := by simp [skipRow]

/-! ### driveRow -/

@[simp] theorem driveRow_cfg (r : RowOp) (s : State) : (driveRow r s).cfg = s.cfg := by simp [driveRow]
@[simp] theorem driveRow_regs (r : RowOp) (s : State) : (driveRow r s).regs = s.regs := by simp [driveRow]
@[simp] theorem driveRow_drv (r : RowOp) (s : State) : (driveRow r s).drv = s.drv := by simp [driveRow]
@[simp] theorem driveRow_ctl (r : RowOp) (s : State) : (driveRow r s).ctl = s.ctl := by simp [driveRow]
@[simp] theorem driveRow_tabs (r : RowOp) (s : State) : (driveRow r s).tabs = s.tabs := by simp [driveRow]
@[simp] theorem driveRow_grey (r : RowOp) (s : State) : (driveRow r s).grey = s.grey := by simp [driveRow]
@[simp] theorem driveRow_mem (r : RowOp) (s : State) : (driveRow r s).mem = s.mem := by simp [driveRow]
@[simp] theorem driveRow_pins (r : RowOp) (s : State) : (driveRow r s).pins = s.pins := by simp [driveRow]
@[simp] theorem driveRow_log (r : RowOp) (s : State) : (driveRow r s).log = s.log := by simp [driveRow]

/-! ### runRow -/

@[simp] theorem runRow_cfg (r : RowOp) (s : State) : (runRow r s).cfg = s.cfg := by
  unfold runRow; split <;> simp
@[simp] theorem runRow_regs (r : RowOp) (s : State) : (runRow r s).regs = s.regs := by
  unfold runRow; split <;> simp
@[simp] theorem runRow_drv (r : RowOp) (s : State) : (runRow r s).drv = s.drv := by
  unfold runRow; split <;> simp
@[simp] theorem runRow_ctl (r : RowOp) (s : State) : (runRow r s).ctl = s.ctl := by
  unfold runRow; split <;> simp
@[simp] theorem runRow_tabs (r : RowOp) (s : State) : (runRow r s).tabs = s.tabs := by
  unfold runRow; split <;> simp
@[simp] theorem runRow_grey (r : RowOp) (s : State) : (runRow r s).grey = s.grey := by
  unfold runRow; split <;> simp
@[simp] theorem runRow_mem (r : RowOp) (s : State) : (runRow r s).mem = s.mem := by
  unfold runRow; split <;> simp
@[simp] theorem runRow_pins (r : RowOp) (s : State) : (runRow r s).pins = s.pins := by
  unfold runRow; split <;> simp
@[simp] theorem runRow_log (r : RowOp) (s : State) : (runRow r s).log = s.log := by
  unfold runRow; split <;> simp

@[simp] theorem rowDone_hostIn (s : State) : (rowDone s).env.hostIn = s.env.hostIn := by
  unfold rowDone; split <;> rfl
@[simp] theorem skipRow_hostIn (s : State) : (skipRow s).env.hostIn = s.env.hostIn := by simp [skipRow]
@[simp] theorem driveRow_hostIn (r : RowOp) (s : State) : (driveRow r s).env.hostIn = s.env.hostIn := by simp [driveRow]
@[simp] theorem runRow_hostIn (r : RowOp) (s : State) : (runRow r s).env.hostIn = s.env.hostIn := by
  unfold runRow; split <;> simp

/-! ### A refresh left unspecified -/

@[simp] theorem Chip.disturb_prev (n : Nat) (c : Chip) : (c.disturb n).prev = c.prev := by
  unfold Chip.disturb; split <;> rfl
@[simp] theorem Chip.disturb_cur (n : Nat) (c : Chip) : (c.disturb n).cur = c.cur := by
  unfold Chip.disturb; split <;> rfl
@[simp] theorem Chip.disturb_tables (n : Nat) (c : Chip) : (c.disturb n).tables = c.tables := by
  unfold Chip.disturb; split <;> rfl
@[simp] theorem Chip.disturb_lutSrc (n : Nat) (c : Chip) : (c.disturb n).lutSrc = c.lutSrc := by
  unfold Chip.disturb; split <;> rfl
@[simp] theorem Chip.disturb_powered (n : Nat) (c : Chip) : (c.disturb n).powered = c.powered := by
  unfold Chip.disturb; split <;> rfl
@[simp] theorem Chip.disturb_partialMode (n : Nat) (c : Chip) : (c.disturb n).partialMode = c.partialMode := by
  unfold Chip.disturb; split <;> rfl
/-- A refresh in progress has free row bytes and free images from here on (spec/93 U7). -/
theorem Chip.disturb_engine {n : Nat} {c : Chip} (h : c.engine.active = true) :
    (c.disturb n).engine = { c.engine with disturbed := some n, prev := c.engine.prev.loosen (n + 1), cur := c.engine.cur.loosen (n + 2) } := by
  simp [Chip.disturb, h, Engine.disturb]
@[simp] theorem Chip.disturb_idle {n : Nat} {c : Chip} (h : c.engine.active = false) : c.disturb n = c := by
  simp [Chip.disturb, h]

end Sys2Proof.Machine
end

