-- ==== Sys2Proof/Laws/Ops.lean ====
section
/-!
SUPPORT. What each shared operation can answer, said once: the gate of `send`, `wait_ready`, the acceptance of a host
operation, the instruction bytes stand for, and one step.
-/
namespace Sys2Proof.Machine

/-! ### The busy line -/

/-- A chip that is ready is not busy for the gate, with or without a busy wire. -/
theorem isBusyNow_of_ready {s : State} (h : busyLevel s = false) : isBusyNow s = false := by simp [isBusyNow, h]

/-- A busy poll counts, or ends the operation with HardwareTimeout (R172, R262). -/
theorem held_cases (s : State) :
    (held s = { s with ctl := { s.ctl with polls := s.ctl.polls + 1 } } ∧
      ∀ n, s.cfg.busyTimeout = some n → s.ctl.polls < n) ∨
    (held s = raise .timeout .none s ∧ ∃ n, s.cfg.busyTimeout = some n ∧ n ≤ s.ctl.polls) := by
  unfold held
  cases h : s.cfg.busyTimeout with
  | none => exact .inl ⟨rfl, nofun⟩
  | some n =>
    by_cases hn : n < s.ctl.polls + 1
    · exact .inr ⟨by simp [hn], n, rfl, by omega⟩
    · exact .inl ⟨by simp [hn], by rintro _ ⟨⟩; omega⟩

/-- `wait_ready` polls again, or goes on after a sample that said not busy (R172). -/
theorem doWaitReady_cases (s : State) :
    (isBusyNow s = true ∧ doWaitReady s = held (afterIsBusy s)) ∨
    (isBusyNow s = false ∧ doWaitReady s = advance (afterIsBusy s)) := by
  unfold doWaitReady
  cases h : isBusyNow s with
  | true => exact .inl ⟨rfl, by simp⟩
  | false => exact .inr ⟨rfl, by simp⟩

/-! ### send (R170) -/

/-- A `send` that the gate lets through to a chip that is ready: one transaction, and the command's effect. -/
theorem busSend_ready {c : Cmd} {data : List Byte} {eff : ChipEffect} {s : State} (h : busyLevel s = false) :
    busSend c data eff s =
      advance (takeFree 10
        { emit c data (afterIsBusy s) with chip := eff.ready s.chip }) := by
  simp [busSend, isBusyNow, h]

/-- What `send` can do: hold the block, or put the transaction out and let the chip act on it. -/
theorem busSend_cases (c : Cmd) (data : List Byte) (eff : ChipEffect) (s : State) :
    (s.drv.hasBusy = true ∧ busyLevel s = true ∧ busSend c data eff s = held (afterIsBusy s)) ∨
    ((s.drv.hasBusy = true → busyLevel s = false) ∧
      ∃ chip, (busyLevel s = false → chip = eff.ready s.chip) ∧
        (busyLevel s = true → chip = eff.smear (s.env.free + 1) s.chip) ∧
        busSend c data eff s =
          advance (takeFree 10
            { emit c data (afterIsBusy s) with chip := chip })) := by
  unfold busSend
  by_cases h : isBusyNow s = true
  · simp only [isBusyNow, Bool.and_eq_true] at h
    exact .inl ⟨h.1, h.2, by simp [isBusyNow, h]⟩
  · refine .inr ⟨fun hb => by simpa [isBusyNow, hb] using h,
      (if busyLevel s then eff.smear (s.env.free + 1) else eff.ready) s.chip, by simp_all, by simp_all, ?_⟩
    simp only [h, if_false, Bool.false_eq_true]
    split <;> simp_all

/-! ### Host operations -/

/-- A write to CMD is held, is Unspecified cause 2 before INIT, or is accepted (R30, R191, R303). -/
theorem hostOp_cases (op : HostOp) (body : State → State) (s : State) :
    (s.ctl.running = true ∧ hostOp op body s = s) ∨
    (s.ctl.running = false ∧ op ≠ .init ∧ s.ctl.inited = false ∧
      hostOp op body s = raise .unspecified .beforeInit (accept (some op) s)) ∨
    (s.ctl.running = false ∧ (op = .init ∨ s.ctl.inited = true) ∧ hostOp op body s = body (accept (some op) s)) := by
  unfold hostOp
  cases hr : s.ctl.running with
  | true => exact .inl ⟨rfl, by simp⟩
  | false =>
    by_cases h : op ≠ .init ∧ s.ctl.inited = false
    · exact .inr (.inl ⟨rfl, h.1, h.2, by simp [h]⟩)
    · exact .inr (.inr ⟨rfl, by by_cases ho : op = .init <;> simp_all, by simp [h]⟩)

/-- An operation that may begin is accepted. -/
theorem hostOp_accepts {op : HostOp} {body : State → State} {s : State} (hr : s.ctl.running = false)
    (hi : op = .init ∨ s.ctl.inited = true) : hostOp op body s = body (accept (some op) s) := by
  unfold hostOp
  rcases hi with rfl | hi <;> simp [hr]
  simp [hi]

/-! ### Instructions of bytes -/

/-- Every six bytes run as the row they are, whichever shape they decode to (R91, R100). -/
theorem exec_of_decodeRow {s : State} {l : Lane} {pat d0 d1 d2 d3 rep : Byte} {i : Instr}
    (h : decodeRow s.cfg.polarity l [pat, d0, d1, d2, d3, rep] = .ok i) :
    exec i s = .next (runRow ⟨patCode pat 0, patCode pat 1, patCode pat 2, patCode pat 3, d0, d1, d2, d3, rep⟩ s) := by
  obtain ⟨j, hj, hc⟩ := decodeRow_cases s.cfg.polarity l pat d0 d1 d2 d3 rep
  rw [hj] at h
  cases h
  rcases hc with ⟨rfl, rfl⟩ | ⟨-, rfl, rfl, rfl, rfl, rfl⟩ | ⟨-, rfl, rfl, rfl, rfl, rfl⟩ |
    ⟨-, rfl, rfl, rfl, rfl, rfl⟩ | ⟨rfl, rfl, rfl, rfl, rfl, rfl⟩ | ⟨-, rfl⟩
  · simp [exec, execUnusedRow, runRow]
  · simp [exec, execSettleRowBw]
  · simp [exec, execPingpongRowBw]
  · simp [exec, execFinalRowBw]
  · simp [exec, execGreyRow]
  · simp [exec, execPhaseRow]

/-- What a named command with data does to the chip. -/
def namedEffect (cfg : Config) (c : Cmd) (data : List Byte) (n : Nat) : ChipEffect :=
  match c with
  | .panelConfig => writePsr cfg (data.headD 0) n
  | .powerOff => setPower false
  | .powerOn => setPower true
  | .dataPrevious => writePrev data
  | .dataStop => noChipState
  | .refresh => triggerRefresh n
  | .dataCurrent => writeCur data
  | .lutVcom => loadTable .vcom data
  | .lutWw => loadTable .ww data
  | .lutBw => loadTable .bw data
  | .lutWb => loadTable .wb data
  | .lutBb => loadTable .bb data
  | .partialOut => clearPartial
  | .raw o => rawEffect cfg o data n

/-- A command with data of its length is one `send` with its effect (R170). -/
theorem exec_instr {c : Cmd} {data : List Byte} {nb : Nat} (s : State) (hd : c.fits nb data = true) :
    exec (c.instr data) s = .next (busSend c data (namedEffect s.cfg c data (s.env.free + 1)) s) := by
  cases c
  case panelConfig =>
    obtain ⟨b, rfl⟩ : ∃ b, data = [b] := by
      simpa [Cmd.fits, Cmd.dataLength, List.length_eq_one_iff] using hd
    rfl
  case powerOff => obtain rfl : data = [] := by simpa [Cmd.fits, Cmd.dataLength] using hd
                   rfl
  case powerOn => obtain rfl : data = [] := by simpa [Cmd.fits, Cmd.dataLength] using hd
                  rfl
  case dataStop => obtain rfl : data = [] := by simpa [Cmd.fits, Cmd.dataLength] using hd
                   rfl
  case refresh => obtain rfl : data = [] := by simpa [Cmd.fits, Cmd.dataLength] using hd
                  rfl
  case partialOut => obtain rfl : data = [] := by simpa [Cmd.fits, Cmd.dataLength] using hd
                     rfl
  all_goals rfl

/-- Every transaction is one `send` of its bytes (R108, R170). -/
theorem exec_of_decodeBus {s : State} {nb : Nat} {bytes : List Byte} {i : Instr}
    (h : decodeBus s.cfg.opc nb bytes = .ok i) :
    ∃ c data eff, s.cfg.opc.byteOf c :: data = bytes ∧ exec i s = .next (busSend c data eff s) := by
  cases bytes with
  | nil => cases h
  | cons o data =>
    rcases decodeBus_cases s.cfg.opc nb o data with ⟨c, hf, hd, hc⟩ | ⟨-, hc⟩
    · rw [hc] at h
      cases h
      exact ⟨c, data, _, by rw [(Opcodes.byteOf_of_find hf).1], exec_instr s hd⟩
    · rw [hc] at h
      cases h
      exact ⟨.raw o, data, _, rfl, rfl⟩

/-- Every code runs to a next state. -/
theorem exec_hostOfCode (b : Byte) (s : State) : ∃ t, exec (hostOfCode b) s = .next t := by
  rcases hostOfCode_cases b with h | h | h | h | h | h | h | h <;> rw [h] <;> exact ⟨_, rfl⟩

/-! ### Rows (R100) -/

/-- A row is skipped when its repeat is 0, and driven otherwise (R95). -/
theorem runRow_cases (r : RowOp) (s : State) :
    (r.rep = 0 ∧ runRow r s = skipRow s) ∨ (r.rep ≠ 0 ∧ runRow r s = driveRow r s) := by
  by_cases h : r.rep = 0
  · exact .inl ⟨h, by simp [runRow, h]⟩
  · exact .inr ⟨h, by unfold runRow; rw [if_neg h]⟩

/-- After a row the refresh ends at the last row of the last lane, and moves on everywhere else (R90, R100). -/
theorem rowDone_cases (s : State) :
    (s.chip.engine.atEnd = true ∧
      rowDone s = takeFree 2
        { s with chip := { s.chip with engine := { s.chip.engine with active := false }
                                       prev := s.chip.prev.loosen s.env.free
                                       cur := s.chip.cur.loosen (s.env.free + 1) } }) ∨
    (s.chip.engine.atEnd = false ∧
      rowDone s = { s with chip := { s.chip with engine := s.chip.engine.forward } }) := by
  cases h : s.chip.engine.atEnd with
  | true => exact .inl ⟨rfl, by simp [rowDone, h]⟩
  | false => exact .inr ⟨rfl, by simp [rowDone, h]⟩

/-! ### One step -/

/-- The bytes the engine fetches are six. -/
theorem Engine.fetch_eq (e : Engine) :
    e.fetch = [e.byteOf e.lane (6 * e.row), e.byteOf e.lane (6 * e.row + 1), e.byteOf e.lane (6 * e.row + 2),
      e.byteOf e.lane (6 * e.row + 3), e.byteOf e.lane (6 * e.row + 4), e.byteOf e.lane (6 * e.row + 5)] := rfl

/-- The row the engine is at. -/
def Engine.rowOp (e : Engine) : RowOp :=
  let p := e.byteOf e.lane (6 * e.row)
  ⟨patCode p 0, patCode p 1, patCode p 2, patCode p 3, e.byteOf e.lane (6 * e.row + 1),
    e.byteOf e.lane (6 * e.row + 2), e.byteOf e.lane (6 * e.row + 3), e.byteOf e.lane (6 * e.row + 4),
    e.byteOf e.lane (6 * e.row + 5)⟩

/-- On the engine's turn a step runs the row the engine is at (R100). -/
theorem step_engine {s : State} (h : engineTurn s = true) :
    step s = .next (runRow s.chip.engine.rowOp (turned s)) := by
  unfold step
  rw [if_pos h, Engine.fetch_eq]
  unfold runBytes
  simp only [decode]
  obtain ⟨i, hi, -⟩ := decodeRow_cases (turned s).cfg.polarity s.chip.engine.lane
    (s.chip.engine.byteOf s.chip.engine.lane (6 * s.chip.engine.row))
    (s.chip.engine.byteOf s.chip.engine.lane (6 * s.chip.engine.row + 1))
    (s.chip.engine.byteOf s.chip.engine.lane (6 * s.chip.engine.row + 2))
    (s.chip.engine.byteOf s.chip.engine.lane (6 * s.chip.engine.row + 3))
    (s.chip.engine.byteOf s.chip.engine.lane (6 * s.chip.engine.row + 4))
    (s.chip.engine.byteOf s.chip.engine.lane (6 * s.chip.engine.row + 5))
  rw [hi]
  exact exec_of_decodeRow hi

/-- On the block's turn a step performs the next action of the script. -/
theorem step_action {s : State} {a : Action} {rest : List Action} (h : engineTurn s = false)
    (ht : s.ctl.todo = a :: rest) : step s = blockStep a (turned s) := by
  unfold step
  simp [h, ht]

/-- A `send` of a script with a named command and data of its length (R108, R170). -/
theorem blockStep_send {s : State} {c : Cmd} {d : Payload} {data : List Byte} (hw : s.cfg.opc.wf = true)
    (hc : c ∈ Cmd.named) (hp : payload s d = .ok data) (hd : c.fits s.drv.nb data = true) :
    blockStep (.send c d) s = .next (busSend c data (namedEffect s.cfg c data (s.env.free + 1)) s) := by
  simp only [blockStep, sendBytes, hp, runBytes, decode, decodeBus_named hw hc hd]
  exact exec_instr s hd

/-- What a `send` of a script can do: its error raised, or a `send` of some bytes. -/
theorem blockStep_send_cases (c : Cmd) (d : Payload) (s : State) :
    (∃ e, payload s d = .error e ∧ blockStep (.send c d) s = .next (raise .configuration e s)) ∨
    (∃ data c' data' eff, payload s d = .ok data ∧ s.cfg.opc.byteOf c' :: data' = s.cfg.opc.byteOf c :: data ∧
      blockStep (.send c d) s = .next (busSend c' data' eff s)) := by
  cases hp : payload s d with
  | error e => exact .inl ⟨e, rfl, by simp [blockStep, sendBytes, hp]⟩
  | ok data =>
    obtain ⟨i, hi⟩ : ∃ i, decodeBus s.cfg.opc s.drv.nb (s.cfg.opc.byteOf c :: data) = .ok i := by
      rcases decodeBus_cases s.cfg.opc s.drv.nb (s.cfg.opc.byteOf c) data with ⟨_, -, -, h⟩ | ⟨-, h⟩ <;> exact ⟨_, h⟩
    obtain ⟨c', data', eff, hb, he⟩ := exec_of_decodeBus hi
    exact .inr ⟨data, c', data', eff, rfl, hb, by simp [blockStep, sendBytes, hp, runBytes, decode, hi, he]⟩

/-- What one step can do: the engine's row, an action of the script, nothing, or, when nothing runs, the host's next
access. -/
theorem step_cases {s t : State} (h : step s = .next t) :
    (engineTurn s = true ∧ t = runRow s.chip.engine.rowOp (turned s)) ∨
    (∃ c d rest c' data eff, s.ctl.todo = .send c d :: rest ∧ t = busSend c' data eff (turned s)) ∨
    (∃ c d rest e, s.ctl.todo = .send c d :: rest ∧ t = raise .configuration e (turned s)) ∨
    (∃ a rest, s.ctl.todo = a :: rest ∧ (∀ c d, a ≠ .send c d) ∧ t = perform a (turned s)) ∨
    t = turned s ∨
    (s.ctl.todo = [] ∧ s.ctl.running = false ∧
      ((∃ sp a b, hostFill (hostTaken (turned s)) sp a b = .next t) ∨
       (∃ off v, t = hostWrite off v (hostTaken (turned s))) ∨
       (∃ v, exec (hostOfCode (BitVec.ofNat 8 v)) (writeCmd v (hostTaken (turned s))) = .next t))) := by
  cases he : engineTurn s with
  | true =>
    rw [step_engine he] at h
    exact .inl ⟨rfl, by injection h with h; exact h.symm⟩
  | false =>
    cases ht : s.ctl.todo with
    | cons a rest =>
      rw [step_action he ht] at h
      cases a with
      | send c d =>
        rcases blockStep_send_cases c d (turned s) with ⟨e, -, hb⟩ | ⟨_, c', data', eff, -, -, hb⟩
        · rw [hb] at h
          injection h with h
          exact .inr (.inr (.inl ⟨c, d, rest, e, rfl, h.symm⟩))
        · rw [hb] at h
          injection h with h
          exact .inr (.inl ⟨c, d, rest, c', data', eff, rfl, h.symm⟩)
      | _ =>
        injection h with h
        exact .inr (.inr (.inr (.inl ⟨_, _, rfl, by rintro _ _ ⟨⟩, h.symm⟩)))
    | nil =>
      unfold step at h
      simp only [he, ht, Bool.false_eq_true, if_false] at h
      split at h
      · injection h with h
        exact .inr (.inr (.inr (.inr (.inl h.symm))))
      · next hr =>
        have hr : s.ctl.running = false := by simpa using hr
        split at h
        · next a _ _ =>
          cases a with
          | fill sp x b => exact .inr (.inr (.inr (.inr (.inr ⟨rfl, hr, .inl ⟨sp, x, b, h⟩⟩))))
          | write off v =>
            cases off with
            | zero => exact .inr (.inr (.inr (.inr (.inr ⟨rfl, hr, .inr (.inr ⟨v, h⟩)⟩))))
            | succ off =>
              injection h with h
              exact .inr (.inr (.inr (.inr (.inr ⟨rfl, hr, .inr (.inl ⟨off + 1, v, h.symm⟩)⟩))))
        · injection h with h
          exact .inr (.inr (.inr (.inr (.inl h.symm))))

/-- What every part of a step keeps, every step keeps. A part of the script may use that it is the script's next action,
an access of the host that no script is left. -/
theorem step_keeps {P : State → Prop} (hturn : ∀ s, P s → P (turned s)) (htaken : ∀ s, P s → P (hostTaken s))
    (hcmd : ∀ v s, P s → P (writeCmd v s)) (hrow : ∀ r s, P s → P (runRow r s))
    (hsend : ∀ c d rest c' data eff s, s.ctl.todo = .send c d :: rest → P s → P (busSend c' data eff s))
    (hraise : ∀ c d rest e s, s.ctl.todo = .send c d :: rest → P s → P (raise .configuration e s))
    (hperform : ∀ a rest s, s.ctl.todo = a :: rest → P s → P (perform a s))
    (hfill : ∀ s sp a b t, P s → hostFill s sp a b = .next t → P t) (hwrite : ∀ off v s, P s → P (hostWrite off v s))
    (hhost : ∀ b s t, s.ctl.todo = [] → P s → exec (hostOfCode b) s = .next t → P t) {s t : State} (hs : P s)
    (h : step s = .next t) : P t := by
  rcases step_cases h with ⟨-, h⟩ | ⟨_, _, _, _, _, _, ht, h⟩ | ⟨_, _, _, _, ht, h⟩ | ⟨_, _, ht, -, h⟩ | h |
    ⟨ht, -, ⟨_, _, _, h⟩ | ⟨_, _, h⟩ | ⟨_, h⟩⟩
  · exact h ▸ hrow _ _ (hturn _ hs)
  · exact h ▸ hsend _ _ _ _ _ _ _ ht (hturn _ hs)
  · exact h ▸ hraise _ _ _ _ _ ht (hturn _ hs)
  · exact h ▸ hperform _ _ _ ht (hturn _ hs)
  · exact h ▸ hturn _ hs
  · exact hfill _ _ _ _ _ (htaken _ (hturn _ hs)) h
  · exact h ▸ hwrite _ _ _ (htaken _ (hturn _ hs))
  · exact hhost _ _ _ (by simpa using ht) (hcmd _ _ (htaken _ (hturn _ hs))) h

end Sys2Proof.Machine
end

