-- ==== Sys2Proof/Laws/Bus.lean ====
section
/-!
SUPPORT. What a `send` to a chip that is ready leaves, quiet machines, and the pin framing of a transaction.
-/
namespace Sys2Proof.Machine

/-- A `send` to a chip that is ready makes its transaction, and the chip takes the command's effect (R170). -/
theorem busSend_transacted {c : Cmd} {data : List Byte} {eff : ChipEffect} {s : State} (h : busyLevel s = false) :
    Transacted s (busSend c data eff s) c data ∧ (busSend c data eff s).chip = eff.ready s.chip := by
  rw [busSend_ready h]
  cases hb : s.drv.hasBusy <;>
    simp [hb, h, Transacted, SameBlock, SameMemory, emit, advance, takeFree, afterIsBusy, logEvent]

/-- What a `send` to a chip that is ready leaves in the environment: only free values are taken. -/
theorem busSend_env {c : Cmd} {data : List Byte} {eff : ChipEffect} {s : State} (h : busyLevel s = false) :
    (busSend c data eff s).env = { s.env with free := s.env.free + 10 } := by
  rw [busSend_ready h]
  simp [emit, advance, takeFree]

/-- A quiet machine stays quiet for one moment less when a step is taken. -/
theorem Quiet.turned {k : Nat} {s : State} (h : Quiet (k + 1) s) : Quiet k (turned s) := by
  obtain ⟨ha, hf⟩ := h
  cases hb : s.env.busyFeed with
  | nil => simp [hb, List.replicate_succ] at hf
  | cons b feed =>
    simp only [hb, List.take_succ_cons, List.replicate_succ, List.cons.injEq] at hf
    exact ⟨by simpa using ha, by simpa [hb] using hf.2⟩

/-- A quiet machine's chip is not busy now. -/
theorem Quiet.ready {k : Nat} {s : State} (h : Quiet (k + 1) s) : busyLevel s = false := by
  obtain ⟨ha, hf⟩ := h
  cases hb : s.env.busyFeed with
  | nil => simp [hb, List.replicate_succ] at hf
  | cons b feed =>
    simp only [hb, List.take_succ_cons, List.replicate_succ, List.cons.injEq] at hf
    simp [busyLevel, ha, hb, hf.1]

/-! ### Pin framing (R173) -/

/-- Pin actions after pin actions. -/
theorem wireAfter_append {l m : List PinEvent} {w : Wire} (h : wireAfter l = some w) :
    wireAfter (l ++ m) = m.foldl (fun w e => w.bind (·.next e)) (some w) := by
  unfold wireAfter at *
  rw [List.foldl_append, h]

/-- Data bytes leave the pins where they are. -/
theorem wire_data (data : List Byte) :
    (data.map PinEvent.byte).foldl (fun w e => w.bind (·.next e)) (some Wire.data) = some Wire.data := by
  induction data with
  | nil => rfl
  | cons b data ih => exact ih

/-- A transaction from released pins with RESET_N high is framed, and releases them again. -/
theorem wireAfter_pinFrame {l : List PinEvent} (o : Byte) (data : List Byte) (h : wireAfter l = some (.idle true)) :
    wireAfter (l ++ pinFrame o data) = some (.idle true) := by
  rw [wireAfter_append h]
  cases data with
  | nil => rfl
  | cons b data =>
    show (data.map PinEvent.byte ++ [PinEvent.csRelease]).foldl (fun w e => w.bind (·.next e)) (some Wire.data) = _
    rw [List.foldl_append, wire_data]
    rfl

/-- A script that is not at a RESET_N action has it high, and the rest of it is paired too. -/
theorem resetPaired_tail {high : Bool} {a : Action} {l : List Action} (h : resetPaired high (a :: l) = true)
    (ha : ∀ x, a ≠ .resetPin x) : high = true ∧ resetPaired true l = true := by
  cases high <;> cases a <;> simp_all [resetPaired]

end Sys2Proof.Machine
end

