-- ==== Sys2Proof/Laws/Memory.lean ====
section
/-!
SUPPORT. Every memory operation keeps the canonical form, and so does everything that uses one.
-/
namespace Sys2Proof.Machine

/-! ### Bounds -/

/-- A list canonical from a bound is canonical from any lower one. -/
theorem Memory.wfFrom_mono {lo lo' : Nat} {m : Memory} (h : lo' ≤ lo) (hm : Memory.wfFrom lo m = true) :
    Memory.wfFrom lo' m = true := by
  cases m with
  | nil => rfl
  | cons e m =>
    simp only [Memory.wfFrom, Bool.and_eq_true, decide_eq_true_eq] at hm ⊢
    exact ⟨⟨by omega, hm.1.2⟩, hm.2⟩

/-- Below its bound a canonical list holds nothing. -/
theorem Memory.read_below {lo x : Nat} {m : Memory} (hm : Memory.wfFrom lo m = true) (h : x < lo) :
    m.read x = Memory.unwritten := by
  induction m generalizing lo with
  | nil => rfl
  | cons e m ih =>
    simp only [Memory.wfFrom, Bool.and_eq_true, decide_eq_true_eq] at hm
    have : e.1 ≠ x := by omega
    simp only [Memory.read, this, if_false]
    exact ih hm.2 (by omega)

/-! ### Writes -/

/-- A byte write keeps the canonical form. -/
theorem Memory.wfFrom_write {lo x : Nat} {b : Byte} {m : Memory} (hx : lo ≤ x) (hm : Memory.wfFrom lo m = true) :
    Memory.wfFrom lo (m.write x b) = true := by
  induction m generalizing lo with
  | nil =>
    by_cases hb : b = Memory.unwritten <;> simp [Memory.write, Memory.wfFrom, hb, hx]
  | cons e m ih =>
    obtain ⟨a, c⟩ := e
    simp only [Memory.wfFrom, Bool.and_eq_true, decide_eq_true_eq] at hm
    obtain ⟨⟨ha, hc⟩, hm⟩ := hm
    unfold Memory.write
    split
    · next h => by_cases hb : b = Memory.unwritten <;> simp_all [Memory.wfFrom]
    · split
      · next h =>
        subst h
        by_cases hb : b = Memory.unwritten
        · simpa [hb] using Memory.wfFrom_mono (by omega) hm
        · simp [Memory.wfFrom, hb, hx, hm]
      · simp only [Memory.wfFrom, Bool.and_eq_true, decide_eq_true_eq]
        exact ⟨⟨ha, hc⟩, ih (by omega) hm⟩

/-- A byte write keeps the canonical form of a space. -/
theorem Memory.wf_write {m : Memory} (x : Nat) (b : Byte) (h : m.wf = true) : (m.write x b).wf = true :=
  Memory.wfFrom_write (Nat.zero_le x) h

/-- A space rewritten from a bound on is canonical from it. -/
theorem Memory.wfFrom_ofBytes (lo : Nat) (bytes : List Byte) : Memory.wfFrom lo (Memory.ofBytes lo bytes) = true := by
  induction bytes generalizing lo with
  | nil => rfl
  | cons b bs ih =>
    by_cases hb : b = Memory.unwritten
    · simpa [Memory.ofBytes, hb] using Memory.wfFrom_mono (Nat.le_succ lo) (ih (lo + 1))
    · simpa [Memory.ofBytes, Memory.wfFrom, hb] using ih (lo + 1)

/-- A space rewritten in full is canonical. -/
theorem Memory.wf_ofBytes (bytes : List Byte) : (Memory.ofBytes 0 bytes).wf = true := Memory.wfFrom_ofBytes 0 bytes

/-! ### The six spaces -/

/-- The canonical form of the spaces is that of each. -/
theorem Spaces.wf_iff (m : Spaces) : m.wf = true ↔ ∀ sp, (m.get sp).wf = true := by
  simp only [Spaces.wf, Bool.and_eq_true]
  constructor
  · rintro ⟨⟨⟨⟨⟨h0, h1⟩, h2⟩, h3⟩, h4⟩, h5⟩ sp
    cases sp <;> assumption
  · intro h
    exact ⟨⟨⟨⟨⟨h .fb0, h .fb1⟩, h .lum⟩, h .lvl⟩, h .maskOld⟩, h .maskNew⟩

/-- The host's write of a byte keeps the canonical form. -/
theorem Spaces.wf_putHost {m : Spaces} (sp : HostSpace) (a : Nat) (b : Byte) (h : m.wf = true) :
    (m.putHost sp a b).wf = true := by
  simp only [Spaces.wf, Bool.and_eq_true] at h ⊢
  cases sp <;> simp [Spaces.putHost, Memory.wf_write, h]

/-- What a fill by the host answers: a state with that byte written, or the fault outside the space. -/
theorem hostFill_cases (s : State) (sp : HostSpace) (a : Nat) (b : Byte) :
    (a < hostSpaceSize s sp ∧ hostFill s sp a b = .next { s with mem := s.mem.putHost sp a b }) ∨
    (hostSpaceSize s sp ≤ a ∧ hostFill s sp a b = .fault .outsideSpace) := by
  unfold hostFill
  split
  · exact .inl ⟨‹_›, rfl⟩
  · exact .inr ⟨by omega, rfl⟩

/-- Building masks keeps the canonical form. -/
theorem buildMasks_mem_wf {g : Nat} {s : State} (h : s.mem.wf = true) : (buildMasks g s).mem.wf = true := by
  simp only [Spaces.wf, Bool.and_eq_true] at h ⊢
  simp [buildMasks, Memory.wf_ofBytes, h]

/-- Normalisation keeps the canonical form. -/
theorem doNormalise_mem_wf {s : State} (h : s.mem.wf = true) : (doNormalise s).mem.wf = true := by
  simp only [Spaces.wf, Bool.and_eq_true] at h ⊢
  simp [doNormalise, advance, Memory.wf_ofBytes, h]

/-- The memory of the reset state is canonical. -/
theorem reset_mem_wf : State.reset.mem.wf = true := rfl

end Sys2Proof.Machine
end

