-- ==== Sys2Proof/Laws/PerInstr.lean ====
section
/-!
SUPPORT. Statements made of every instruction, one lemma per constructor.
-/
namespace Sys2Proof.Laws.EncodedSize

/-- How many bytes a well-formed instruction has at its port: one host code (R104), six bytes of a row (R90), an opcode byte
and any data bytes on the bus (R108). -/
def Statement (i : Instr) : Prop :=
  ∀ (c : Config) (p : Port), wellFormed c p i = true →
    match p with
    | .host => (encode c i).length = 1
    | .bus _ => 1 ≤ (encode c i).length
    | .row _ => (encode c i).length = 6

theorem phaseRow (c0 c1 c2 c3 : Code) (d0 d1 d2 d3 rep : Byte) : Statement (.phaseRow c0 c1 c2 c3 d0 d1 d2 d3 rep) := by
  intro c p h
  cases p <;> simp_all [wellFormed, encode, rowBytes]

theorem unusedRow (c0 c1 c2 c3 : Code) (d0 d1 d2 d3 : Byte) : Statement (.unusedRow c0 c1 c2 c3 d0 d1 d2 d3) := by
  intro c p h
  cases p <;> simp_all [wellFormed, encode, rowBytes]

theorem settleRowBw (p rep : Byte) : Statement (.settleRowBw p rep) := by
  intro c port h
  cases port <;> simp_all [wellFormed, encode, rowBytes]

theorem pingpongRowBw (q rep : Byte) : Statement (.pingpongRowBw q rep) := by
  intro c port h
  cases port <;> simp_all [wellFormed, encode, rowBytes]

theorem finalRowBw (p rep : Byte) : Statement (.finalRowBw p rep) := by
  intro c port h
  cases port <;> simp_all [wellFormed, encode, rowBytes]

theorem greyRow (n : Byte) : Statement (.greyRow n) := by
  intro c port h
  cases port <;> simp_all [wellFormed, encode, rowBytes]

theorem init : Statement .init := by
  intro c port h
  cases port <;> simp_all [wellFormed, encode]

theorem setSpeed : Statement .setSpeed := by
  intro c port h
  cases port <;> simp_all [wellFormed, encode]

theorem update : Statement .update := by
  intro c port h
  cases port <;> simp_all [wellFormed, encode]

theorem greyRender : Statement .greyRender := by
  intro c port h
  cases port <;> simp_all [wellFormed, encode]

theorem fadeOut : Statement .fadeOut := by
  intro c port h
  cases port <;> simp_all [wellFormed, encode]

theorem waitOff : Statement .waitOff := by
  intro c port h
  cases port <;> simp_all [wellFormed, encode]

theorem isBusy : Statement .isBusy := by
  intro c port h
  cases port <;> simp_all [wellFormed, encode]

theorem hostReserved (code : Byte) : Statement (.hostReserved code) := by
  intro c port h
  cases port <;> simp_all [wellFormed, encode]

theorem cmdPanelConfig (psr : Byte) : Statement (.cmdPanelConfig psr) := by
  intro c port h
  cases port <;> simp_all [wellFormed, isBus, encode]

theorem cmdPowerOff : Statement .cmdPowerOff := by
  intro c port h
  cases port <;> simp_all [wellFormed, isBus, encode]

theorem cmdPowerOn : Statement .cmdPowerOn := by
  intro c port h
  cases port <;> simp_all [wellFormed, isBus, encode]

theorem cmdDataPrevious (data : List Byte) : Statement (.cmdDataPrevious data) := by
  intro c port h
  cases port <;> simp_all [wellFormed, encode]

theorem cmdDataStop : Statement .cmdDataStop := by
  intro c port h
  cases port <;> simp_all [wellFormed, isBus, encode]

theorem cmdRefresh : Statement .cmdRefresh := by
  intro c port h
  cases port <;> simp_all [wellFormed, isBus, encode]

theorem cmdDataCurrent (data : List Byte) : Statement (.cmdDataCurrent data) := by
  intro c port h
  cases port <;> simp_all [wellFormed, encode]

theorem cmdLutVcom (data : List Byte) : Statement (.cmdLutVcom data) := by
  intro c port h
  cases port <;> simp_all [wellFormed, isBus, encode]

theorem cmdLutWw (data : List Byte) : Statement (.cmdLutWw data) := by
  intro c port h
  cases port <;> simp_all [wellFormed, isBus, encode]

theorem cmdLutBw (data : List Byte) : Statement (.cmdLutBw data) := by
  intro c port h
  cases port <;> simp_all [wellFormed, isBus, encode]

theorem cmdLutWb (data : List Byte) : Statement (.cmdLutWb data) := by
  intro c port h
  cases port <;> simp_all [wellFormed, isBus, encode]

theorem cmdLutBb (data : List Byte) : Statement (.cmdLutBb data) := by
  intro c port h
  cases port <;> simp_all [wellFormed, isBus, encode]

theorem cmdPartialOut : Statement .cmdPartialOut := by
  intro c port h
  cases port <;> simp_all [wellFormed, isBus, encode]

theorem cmdRaw (o : Byte) (data : List Byte) : Statement (.cmdRaw o data) := by
  intro c port h
  cases port <;> simp_all [wellFormed, encode]

end Sys2Proof.Laws.EncodedSize
end

