-- ==== Sys2Proof/Laws/Runs.lean ====
section
/-!
SUPPORT. Runs of several steps put together from single steps.
-/
namespace Sys2Proof.Machine

/-- No step leads to the same state. -/
theorem Runs.zero (s : State) : Runs 0 s s := rfl

/-- A step, then a run. -/
theorem Runs.cons {n : Nat} {s t u : State} (h : step s = .next t) (r : Runs n t u) : Runs (n + 1) s u := by
  unfold Runs at *
  have h' : Sys2Proof.core.step s = .next t := h
  simp only [Host.Core.run, h', r]

/-- A run, then a run. -/
theorem Runs.append {m n : Nat} {s t u : State} (r : Runs m s t) (q : Runs n t u) : Runs (m + n) s u := by
  induction m generalizing s with
  | zero =>
    obtain rfl : s = t := by
      unfold Runs at r
      injection r
    simpa using q
  | succ m ih =>
    unfold Runs at r
    simp only [Host.Core.run] at r
    split at r
    · next s' hs =>
      have := Runs.cons hs (ih r)
      rwa [show m + n + 1 = m + 1 + n by omega] at this
    · cases r
    · cases r

/-- One step is a run of one. -/
theorem Runs.one {s t : State} (h : step s = .next t) : Runs 1 s t := Runs.cons h (Runs.zero t)

end Sys2Proof.Machine
end

