-- ==== Sys2Proof/Tests/Slice0.lean ====
section
/-!
SUPPORT. Tests. Expected results come from spec/95_test_vectors.md (V and P numbers in the comments) or are worked out by
hand from the rule named; they are never the model's own answer pasted back.
-/
namespace Sys2Proof.Machine.Tests

/-! ### Decoding: words written out from the spec's layouts -/

-- R92: pattern C0 in bits 7:6, C1 in 5:4, C2 in 3:2, C3 in 1:0; R91: byte 0 pattern, 1..4 durations, 5 repeat.
theorem test_decode_phaseRow : decode Config.reference (.row .vcom) [0b00011011, 1, 2, 3, 4, 5] =
    .ok (.phaseRow 0 1 2 3 1 2 3 4 5) := rfl
theorem test_decode_phaseRow_bw : decode Config.reference (.row .bw) [0b01100000, 16, 15, 0, 0, 1] =
    .ok (.phaseRow 1 2 0 0 16 15 0 0 1) := rfl
-- R95: the repeat byte 0, whatever the others.
theorem test_decode_unusedRow : decode Config.reference (.row .ww) [0b11100100, 9, 8, 7, 6, 0] =
    .ok (.unusedRow 3 2 1 0 9 8 7 6) := rfl
-- R135 to R137 with CODE_BLACK = 1, CODE_WHITE = 2.
theorem test_decode_settleRowBw : decode Config.reference (.row .bw) [0b01000000, 32, 0, 0, 0, 1] =
    .ok (.settleRowBw 32 1) := rfl
theorem test_decode_pingpongRowBw : decode Config.reference (.row .bw) [0b01100000, 16, 16, 0, 0, 2] =
    .ok (.pingpongRowBw 16 2) := rfl
theorem test_decode_finalRowBw : decode Config.reference (.row .bw) [0b10000000, 8, 0, 0, 0, 2] =
    .ok (.finalRowBw 8 2) := rfl
-- R227.
theorem test_decode_greyRow : decode Config.reference (.row .wb) [0b01000000, 12, 0, 0, 0, 1] = .ok (.greyRow 12) := rfl
-- R105, R107.
theorem test_decode_host :
    [0x01, 0x02, 0x03, 0x04, 0x05, 0x06, 0x07].map (fun b : Byte => decode Config.reference .host [b]) =
      [.ok .init, .ok .setSpeed, .ok .update, .ok .greyRender, .ok .fadeOut, .ok .waitOff, .ok .isBusy] := rfl
theorem test_decode_hostReserved : decode Config.reference .host [0x2A] = .ok (.hostReserved 0x2A) := rfl
-- R109 with the opcodes of spec/93 G1.
theorem test_decode_bus_short :
    [0x02, 0x04, 0x11, 0x12, 0x92].map (fun b : Byte => decode Config.reference (.bus 0) [b]) =
      [.ok .cmdPowerOff, .ok .cmdPowerOn, .ok .cmdDataStop, .ok .cmdRefresh, .ok .cmdPartialOut] := rfl
theorem test_decode_bus_data :
    [0x00, 0x10, 0x13].map (fun b : Byte => decode Config.reference (.bus 1) [b, 0xB3]) =
      [.ok (.cmdPanelConfig 0xB3), .ok (.cmdDataPrevious [0xB3]), .ok (.cmdDataCurrent [0xB3])] := rfl
theorem test_decode_bus_tables :
    [0x21, 0x22, 0x23, 0x24].map (fun b : Byte => decode Config.reference (.bus 0) (b :: zeros 42)) =
      [.ok (.cmdLutWw (zeros 42)), .ok (.cmdLutBw (zeros 42)), .ok (.cmdLutWb (zeros 42)), .ok (.cmdLutBb (zeros 42))] := by
  decide
theorem test_decode_lutVcom : decode Config.reference (.bus 0) (0x20 :: zeros 44) = .ok (.cmdLutVcom (zeros 44)) := by decide
theorem test_decode_raw : decode Config.reference (.bus 0) [0x30, 0x3C] = .ok (.cmdRaw 0x30 [0x3C]) := rfl
-- A named opcode with a length R110 does not have.
theorem test_decode_raw_length : decode Config.reference (.bus 0) [0x12, 1] = .ok (.cmdRaw 0x12 [1]) := rfl
-- R110: an image transfer has the panel's buffer size; here two bytes.
theorem test_decode_image_length :
    decode Config.reference (.bus 2) [0x13, 1] = .ok (.cmdRaw 0x13 [1]) ∧
    decode Config.reference (.bus 2) [0x10, 1, 2, 3] = .ok (.cmdRaw 0x10 [1, 2, 3]) := ⟨rfl, rfl⟩
-- Rejections.
theorem test_decode_rejects :
    decode Config.reference .host [] = .error .hostLength ∧ decode Config.reference .host [1, 2] = .error .hostLength ∧
    decode Config.reference (.bus 0) [] = .error .noOpcode ∧
    decode Config.reference (.row .bw) [1, 2, 3, 4, 5] = .error .rowLength := ⟨rfl, rfl, rfl, rfl⟩
-- spec/opcode_table.json: a row's word has byte 0 in its top eight bits.
theorem test_table_words :
    decodeTableWord 48 0x402000000001 = some (.greyRow 0x20) ∧ decodeTableWord 48 0x402000000002 = some (.settleRowBw 0x20 2) ∧
    decodeTableWord 48 0x601010000001 = some (.pingpongRowBw 0x10 1) ∧ decodeTableWord 8 0x07 = some .isBusy ∧
    decodeTableWord 8 0x92 = some .cmdPartialOut := by decide

/-! ### WellFormed refuses an ill-formed term for each of its checks -/

def ref : Config := Config.reference

theorem test_wf_phaseRow_port : wellFormed ref (.bus 1) (.phaseRow 1 2 3 0 1 2 3 4 5) = false := rfl
theorem test_wf_phaseRow_repeat : wellFormed ref (.row .vcom) (.phaseRow 1 2 3 0 1 2 3 4 0) = false := rfl
theorem test_wf_phaseRow_settle : wellFormed ref (.row .bw) (.phaseRow 1 0 0 0 9 0 0 0 1) = false := by decide
theorem test_wf_phaseRow_pingpong : wellFormed ref (.row .bw) (.phaseRow 1 2 0 0 9 9 0 0 1) = false := by decide
theorem test_wf_phaseRow_final : wellFormed ref (.row .bw) (.phaseRow 2 0 0 0 9 0 0 0 1) = false := by decide
theorem test_wf_phaseRow_grey : wellFormed ref (.row .bb) (.phaseRow 1 0 0 0 9 0 0 0 1) = false := by decide
theorem test_wf_unusedRow_port : wellFormed ref .host (.unusedRow 0 0 0 0 0 0 0 0) = false := rfl
theorem test_wf_bw_rows_port :
    [Instr.settleRowBw 1 1, .pingpongRowBw 1 1, .finalRowBw 1 1].map (wellFormed ref (.row .ww)) = [false, false, false] := by
  decide
theorem test_wf_bw_rows_repeat :
    [Instr.settleRowBw 1 0, .pingpongRowBw 1 0, .finalRowBw 1 0].map (wellFormed ref (.row .bw)) = [false, false, false] := by
  decide
theorem test_wf_greyRow_port : wellFormed ref (.row .bw) (.greyRow 1) = false ∧ wellFormed ref (.row .vcom) (.greyRow 1) = false := by
  decide
theorem test_wf_host_port :
    [Instr.init, .setSpeed, .update, .greyRender, .fadeOut, .waitOff, .isBusy, .hostReserved 9].map (wellFormed ref (.bus 1)) =
      List.replicate 8 false := by decide
theorem test_wf_hostReserved_code : wellFormed ref .host (.hostReserved 7) = false := by decide
theorem test_wf_bus_port :
    [Instr.cmdPanelConfig 0, .cmdPowerOff, .cmdPowerOn, .cmdDataPrevious [], .cmdDataStop, .cmdRefresh, .cmdDataCurrent [],
      .cmdPartialOut, .cmdRaw 0x30 []].map (wellFormed ref .host) = List.replicate 9 false := by decide
theorem test_wf_lut_length :
    [Instr.cmdLutVcom (zeros 42), .cmdLutWw (zeros 41), .cmdLutBw (zeros 43), .cmdLutWb [], .cmdLutBb (zeros 44)].map
      (wellFormed ref (.bus 1)) = List.replicate 5 false := by decide
theorem test_wf_image_length :
    wellFormed ref (.bus 2) (.cmdDataPrevious [1]) = false ∧ wellFormed ref (.bus 2) (.cmdDataCurrent [1, 2, 3]) = false := by
  decide
theorem test_wf_raw_named : wellFormed ref (.bus 1) (.cmdRaw 0x12 []) = false := by decide
theorem test_wf_opcodes : Opcodes.wf { Opcodes.reference with refresh := 0x04 } = false := by decide
theorem test_wf_config :
    Config.wf ref = true ∧ Config.wf { ref with supported := [] } = false ∧ Config.wf { ref with fullSpeed := 7 } = false ∧
    Config.wf { ref with psr := { ref.psr with base := 0x33 } } = false := by decide

/-! ### Small states -/

/-- Parameters with a panel of 8 by 1 pixels. -/
def tinyCfg : Config :=
  { ref with supported := [⟨8, 1, 0x80⟩, ⟨96, 252, 0x40⟩, ⟨96, 230, 0x00⟩, ⟨160, 296, 0xC0⟩] }

/-- Initialised at speed 2 on the tiny panel, a quiet chip, one byte in FB0. -/
def idleState : State :=
  { State.reset with
    cfg := tinyCfg
    ctl := { State.reset.ctl with inited := true }
    drv := { State.reset.drv with width := 8, height := 1, speed := 2 }
    regs := { State.reset.regs with cfgWidth := 8, cfgHeight := 1, argSpeed := 3 }
    mem := { State.reset.mem with fb0 := [(0, 0x5A)] }
    env := { State.reset.env with busyFeed := List.replicate 60 false, pollFeed := [false] } }

/-- The same with the chip busy now. -/
def busyState : State := { idleState with env := { idleState.env with busyFeed := [true] } }

/-- The same with no busy wire. -/
def noWireState (busy : Bool) : State :=
  { idleState with drv := { idleState.drv with hasBusy := false }, env := { idleState.env with busyFeed := [busy] } }

/-- The same with these host registers. -/
def withRegs (speed : Nat) (flags g : Byte) (s : State) : State :=
  { s with regs := { s.regs with argSpeed := speed, argFlags := flags, argG := g } }

/-- A chip with programmed tables: one used row in BW, then one of each shape in WB. -/
def programmedChip : Chip :=
  { idleState.chip with
    lutSrc := .known .programmed
    tables := { idleState.chip.tables with
      bw := .known (rowBytes 1 0 0 0 9 0 0 0 1 ++ zeros 36)
      wb := .known (rowBytes 2 0 0 0 9 0 0 0 1 ++ rowBytes 2 1 0 0 4 4 0 0 1 ++ rowBytes 1 0 0 0 9 0 0 0 1 ++ zeros 24) } }

/-- A refresh has just started with these tables; the engine moves. -/
def refreshState : State :=
  { idleState with
    chip := { programmedChip with engine := Engine.start 0 programmedChip }
    env := { idleState.env with turnFeed := List.replicate 40 true } }

/-- The state a step or an instruction leads to; the start when it stops. -/
def after (o : Out) (s : State) : State :=
  match o with
  | .next t => t
  | _ => s

/-- An instruction run from a state. -/
def run1 (i : Instr) (s : State) : State := after (exec i s) s

/-! ### Host operations -/

-- R300: INJ and ANY are 0 after a successful INIT.
theorem test_init_clears_transients :
    let s := { idleState with ctl := { idleState.ctl with todo := [.setInited], inj := true, any := true, inited := false } }
    (after (step s) s).ctl.inited = true ∧ (after (step s) s).ctl.inj = false ∧ (after (step s) s).ctl.any = false := by decide
-- R47 (b): what each operation came to is kept.
theorem test_results_kept :
    (run1 (.hostReserved 0x2A) (run1 .fadeOut idleState)).log.results =
      [⟨some .fadeOut, false, .unspecified, .fadeOut⟩, ⟨none, false, .configuration, .reservedOp⟩] := by decide
-- R175: the configuration is latched; R174: the script begins with RESET_N low.
theorem test_init_latches :
    (run1 .init idleState).drv.speed = 3 ∧ (run1 .init idleState).ctl.todo.head? = some (.resetPin false) := by decide
-- V3.16: (100, 100) is not supported.
theorem test_init_resolution :
    (run1 .init { State.reset with regs := { State.reset.regs with cfgWidth := 100, cfgHeight := 100 } }).ctl.cause =
      .resolution := by decide
-- V3.3: flag omitted, FR kept.
theorem test_setSpeed_keeps_fr :
    (run1 .setSpeed (withRegs 4 0x01 0 { idleState with drv := { idleState.drv with fr := true } })).drv.fr = true ∧
    (run1 .setSpeed (withRegs 4 0x01 0 idleState)).drv.fr = false := by decide
-- V3.4: speed 7.
theorem test_setSpeed_bad : statusWord (run1 .setSpeed (withRegs 7 0 0 idleState)) = 0x2810 := by decide
-- V3.9: not started.
theorem test_update_busy :
    (run1 .update busyState).ctl.result = false ∧ (run1 .update busyState).ctl.err = .none ∧
      (run1 .update busyState).log.wire = [] := by decide
-- V3.8: N = 1, FR = 1, speed 3: injected; V3.5: not at speed 0.
theorem test_update_injects :
    let d := { idleState.drv with fr := true, fullPeriod := 1, updateCount := 9 }
    (run1 .update (withRegs 0 4 0 { idleState with drv := d })).ctl.todo.head? = some .synthFull ∧
      (run1 .update (withRegs 0 4 0 { idleState with drv := { d with speed := 0 } })).ctl.inj = false := by decide
-- V4.15, V4.16: 33 and 0 grey levels.
theorem test_greyRender_levels :
    (run1 .greyRender (withRegs 0 0 33 idleState)).ctl.cause = .greyLevels ∧
      (run1 .greyRender (withRegs 0 0 0 idleState)).ctl.cause = .greyLevels := by decide
-- P5 step 8: speed 0.
theorem test_greyRender_speed_zero :
    (run1 .greyRender (withRegs 0 0 4 { idleState with drv := { idleState.drv with speed := 0 } })).ctl.cause =
      .greyAtSpeedZero := by decide
-- V3.14.
theorem test_fadeOut : (run1 .fadeOut idleState).ctl.err.code = 7 ∧ (run1 .fadeOut idleState).ctl.cause.code = 1 := by decide
-- R188.
theorem test_waitOff : (run1 .waitOff idleState).ctl.todo.length = 6 := by decide
-- P4 step 4 and V3.12.
theorem test_isBusy :
    (run1 .isBusy busyState).ctl.result = true ∧ (run1 .isBusy (noWireState true)).ctl.result = false := by decide
-- V3.15.
theorem test_hostReserved :
    (run1 (.hostReserved 0x2A) idleState).ctl.err.code = 1 ∧ (run1 (.hostReserved 0x2A) idleState).ctl.cause.code = 4 := by
  decide
-- V3.13: before INIT.
theorem test_update_before_init :
    (run1 .update State.reset).ctl.err.code = 7 ∧ (run1 .update State.reset).ctl.cause.code = 2 := by decide

/-! ### Bus commands -/

-- V2.3: psr_p is 0xB3 on the 128 by 296 panel (95, section 2.3).
theorem test_psr : buildPsr ref 128 296 .programmed false false = .ok 0xB3 ∧
    buildPsr ref 128 296 .internal false false = .ok 0x93 := ⟨rfl, rfl⟩
theorem test_cmdPanelConfig :
    (run1 (.cmdPanelConfig 0xB3) idleState).chip.lutSrc = .known .programmed ∧
      (run1 (.cmdPanelConfig 0x93) idleState).chip.lutSrc = .known .internal := by decide
-- R42.
theorem test_cmdPowerOn : (run1 .cmdPowerOn idleState).chip.powered = .known true := by decide
theorem test_cmdPowerOff : (run1 .cmdPowerOff idleState).chip.powered = .known false := by decide
-- R40: the two slots are not exchanged.
theorem test_cmdDataPrevious :
    (run1 (.cmdDataPrevious [7]) idleState).chip.prev = .known [7] ∧
      (run1 (.cmdDataPrevious [7]) idleState).chip.cur = .known [] := by decide
theorem test_cmdDataCurrent : (run1 (.cmdDataCurrent [7]) idleState).chip.cur = .known [7] := by decide
theorem test_cmdDataStop : (run1 .cmdDataStop idleState).chip = idleState.chip := by decide
-- R44, R76.
theorem test_cmdRefresh : busyLevel (run1 .cmdRefresh idleState) = true := by decide
-- 93 U7: a table loaded during a refresh, on a chip with no busy wire, leaves the refresh unspecified.
theorem test_table_load_disturbs :
    (run1 (.cmdLutWw (zeros 42)) { refreshState with drv := { refreshState.drv with hasBusy := false } }).chip.engine.disturbed =
      some 2 := by decide
-- R41: each command loads its own register.
theorem test_cmdLut_registers :
    (run1 (.cmdLutVcom [1]) idleState).chip.tables.vcom.last = [1] ∧ (run1 (.cmdLutWw [2]) idleState).chip.tables.ww.last = [2] ∧
    (run1 (.cmdLutWb [3]) idleState).chip.tables.wb.last = [3] ∧ (run1 (.cmdLutBb [4]) idleState).chip.tables.bb.last = [4] ∧
    (run1 (.cmdLutBw [5]) idleState).chip.tables.bw.last = [5] := by decide
-- R43.
theorem test_cmdPartialOut : (run1 .cmdPartialOut idleState).chip.partialMode = .known false := by decide
-- R170, R173: CS around the bytes, DC low for the opcode byte and high for the data byte.
theorem test_cmdRaw_frame :
    (run1 (.cmdRaw 0x30 [0x3C]) idleState).log.wire =
      [.csAssert, .dc false, .byte 0x30, .dc true, .byte 0x3C, .csRelease] := by decide
-- S9: no byte while the line says busy.
theorem test_gate : (run1 .cmdPowerOn busyState).log.wire = [] ∧ (run1 .cmdPowerOn busyState).ctl.polls = 1 := by decide

-- R44 (a), R171: the level is the chip's at every moment, so a poll of STATUS before or after a step says nothing of the
-- sample the step takes.
theorem test_poll_is_no_sample :
    let s := { idleState with
      ctl := { idleState.ctl with todo := [.waitReady] }
      env := { idleState.env with busyFeed := [false, true], pollFeed := [false, false] } }
    (statusWord s).getLsbD 7 = false ∧ (after (step s) s).log.trace = [.sample true] ∧
      (statusWord (after (step s) s)).getLsbD 7 = false := by decide
theorem test_poll_after_isBusy :
    let s := run1 .isBusy { busyState with env := { busyState.env with pollFeed := [false] } }
    s.ctl.result = true ∧ (statusWord s).getLsbD 7 = false := by decide

/-! ### Rows -/

-- V1.4: the row takes 5*(1+2+3+4) = 50 frames.
theorem test_phaseRow_frames :
    holdFrames (run1 (.phaseRow 0 1 2 3 1 2 3 4 5) refreshState).chip.engine.waves.vcom = 50 := by decide
-- R95.
theorem test_unusedRow : (run1 (.unusedRow 1 1 1 1 9 9 9 9) refreshState).chip.engine.waves.vcom = [] := by decide
-- R135 to R137, R227 with CODE_BLACK = 1, CODE_WHITE = 2: the codes held longer than 0 frames.
theorem test_shaped_rows :
    [Instr.settleRowBw 32 1, .pingpongRowBw 16 1, .finalRowBw 8 2, .greyRow 10].map (fun i =>
        ((run1 i refreshState).chip.engine.waves.vcom.filter fun h => h.frames != 0).map fun h => (h.code.toNat, h.frames.toNat)) =
      [[(1, 32)], [(1, 16), (2, 16)], [(2, 8), (2, 8)], [(1, 10)]] := by decide

/-! ### The synthesizer -/

/-- BW, WB, VCOM of a synthesis, the used bytes. -/
def tablesOf (c : Config) (q : Nat) (fr : Bool) (n : Nat) : List (List Byte) :=
  match synthesize c q fr with
  | .ok (some t) => [t.vcom.take n, t.bw.take n, t.wb.take n, t.ww.take n, t.bb.take n]
  | _ => []

-- V2.3.
theorem test_synth_2_0 : tablesOf ref 2 false 18 =
    [[0x00, 0x20, 0, 0, 0, 1, 0x00, 0x10, 0x10, 0, 0, 1, 0x00, 0x20, 0, 0, 0, 1],
     [0x40, 0x20, 0, 0, 0, 1, 0x60, 0x10, 0x10, 0, 0, 1, 0x80, 0x20, 0, 0, 0, 1],
     [0x80, 0x20, 0, 0, 0, 1, 0x90, 0x10, 0x10, 0, 0, 1, 0x40, 0x20, 0, 0, 0, 1],
     [0x40, 0x20, 0, 0, 0, 1, 0x60, 0x10, 0x10, 0, 0, 1, 0x80, 0x20, 0, 0, 0, 1],
     [0x80, 0x20, 0, 0, 0, 1, 0x90, 0x10, 0x10, 0, 0, 1, 0x40, 0x20, 0, 0, 0, 1]] := by decide
-- V2.6.
theorem test_synth_3_1 : tablesOf ref 3 true 12 =
    [[0x00, 0x10, 0, 0, 0, 1, 0x00, 0x10, 0, 0, 0, 2], [0x40, 0x10, 0, 0, 0, 1, 0x80, 0x10, 0, 0, 0, 2],
     [0x80, 0x10, 0, 0, 0, 1, 0x40, 0x10, 0, 0, 0, 2], zeros 12, zeros 12] := by decide
-- V2.10.
theorem test_synth_5_1 : tablesOf ref 5 true 12 =
    [[0, 4, 0, 0, 0, 2, 0, 0, 0, 0, 0, 0], [0x80, 4, 0, 0, 0, 2, 0, 0, 0, 0, 0, 0],
     [0x40, 4, 0, 0, 0, 2, 0, 0, 0, 0, 0, 0], zeros 12, zeros 12] := by decide
-- V2.13 to V2.20.
theorem test_fractional_periods :
    [2, 3, 7, 9, 11, 12].map (period { ref with fracBits := 1 }) = [64, 45, 11, 5, 2, 2] ∧
    period { ref with fracBits := 2 } 5 = 53 ∧ period { ref with fracBits := 3 } 9 = 58 := by decide
-- V2.21 to V2.25.
theorem test_speed_check :
    [0, 6, 7].map (speedOk ref) = [true, true, false] ∧ [1, 13].map (speedOk { ref with fracBits := 1 }) = [false, false] := by
  decide
-- V1.2, V1.5 to V1.7.
theorem test_setLutRow :
    setLutRow (zeros 42) 6 ⟨0xFF, 255, 255, 255, 255, 255⟩ = .ok (zeros 36 ++ List.replicate 6 0xFF) ∧
    setLutRow (zeros 42) 7 ⟨0, 0, 0, 0, 0, 0⟩ = .error .rowIndex ∧
    setLutRow (zeros 42) (-1) ⟨0, 0, 0, 0, 0, 0⟩ = .error .rowIndex ∧
    setLutRow (zeros 42) 0 ⟨0, 256, 0, 0, 0, 1⟩ = .error .duration := ⟨rfl, rfl, rfl, rfl⟩

/-! ### Greyscale -/

-- V4.4, V4.5.
theorem test_normalize :
    [0, 1, 64, 127, 128, 169, 173, 176, 177, 254, 255].map (fun l : Byte => normalizeLevel l 32) =
      [31, 31, 23, 16, 15, 10, 10, 10, 9, 0, 0] ∧
    [0, 64, 127, 128, 255].map (fun l : Byte => normalizeLevel l 16) = [15, 11, 8, 7, 0] := by decide
-- V4.17, V4.20.
theorem test_masks :
    maskOldOf 9 [10, 11, 12, 0, 9, 13, 10, 31] = [0x5D] ∧ maskNewOf 9 [10, 11, 12, 0, 9, 13, 10, 31] = [0x60] ∧
    maskOldOf 0 [0, 1, 2, 3, 4, 0, 1, 2] = [0xAD] ∧ maskNewOf 0 [0, 1, 2, 3, 4, 0, 1, 2] = [0x31] := by decide
-- V4.24: G = 16, g = 12.
theorem test_grey_counts :
    let s := setCounts 12 { idleState with grey := { idleState.grey with g := 16 } }
    [s.grey.n1, s.grey.n2, s.grey.n3] = [26, 28, 30] := by decide

/-! ### The host's fill -/

-- R60: LUM has WIDTH*HEIGHT bytes, FB0 an eighth of that.
theorem test_fill_outside :
    hostFill idleState .fb0 1 9 = .fault .outsideSpace ∧ hostFill idleState .lum 8 9 = .fault .outsideSpace ∧
    (after (hostFill idleState .lum 7 9) idleState).mem.lum = [(7, 9)] := ⟨rfl, rfl, by decide⟩

/-! ### Steps from reset -/

-- One step runs the placed word as the first instruction.
theorem test_first_instruction :
    (after (step (State.reset.withFetchWord 8 0x92)) State.reset).log.wire =
      [.csAssert, .dc false, .byte 0x92, .csRelease] := by decide
theorem test_first_host_instruction :
    (after (step (State.reset.withFetchWord 8 0x2A)) State.reset).ctl.cause = .reservedOp := by decide

/-! ### Witnesses: for each obligation with hypotheses, values that meet them all -/

theorem witness_DecodeAfterEncode :
    ref.opc.wf = true ∧ wellFormed ref (.bus 1) (.cmdRaw 0x12 [1]) = true ∧ wellFormed ref (.row .bb) (.greyRow 255) = true ∧
    wellFormed ref .host (.hostReserved 0xFF) = true := by decide
theorem witness_EncodeAfterDecode : decode ref (.row .bw) [0x60, 1, 1, 0, 0, 1] = .ok (.pingpongRowBw 1 1) := rfl
theorem witness_SetLutRowWritesOneRow :
    42 ≤ (zeros 42).length ∧ ((7 : Int) < 0 ∨ 7 ≤ (7 : Int)) ∧ ((-1 : Int) < 0 ∨ 7 ≤ (-1 : Int)) ∧
    ((0 : Int) ≤ 6 ∧ (6 : Int) < 7 ∧ ∃ v ∈ [(0 : Int), 0, 0, 0, 256, 1], v < 0 ∨ 255 < v) ∧
    ((0 : Int) ≤ 6 ∧ (6 : Int) < 7 ∧ ∀ v ∈ [(255 : Int), 0, 1, 2, 3, 255], 0 ≤ v ∧ v ≤ 255) := by decide
theorem witness_PeriodIsIntegerRoot :
    2 ^ ref.fracBits ≤ 1 ∧ 6 ≤ 6 * 2 ^ ref.fracBits ∧ ref.fracBits = 0 := by decide
theorem witness_PeriodHalvesPerSpeed :
    2 ^ ref.fracBits ≤ 1 ∧ 1 ≤ 6 ∧ 6 ≤ 6 * 2 ^ ref.fracBits ∧ 5 + 2 ^ ref.fracBits ≤ 6 * 2 ^ ref.fracBits ∧
    ref.fracBits = 0 := by decide
theorem witness_SynthesizedTableBytes : 2 ^ ref.fracBits ≤ 1 ∧ 6 ≤ 6 * 2 ^ ref.fracBits := by decide
theorem witness_FlickerSelectsCopiesOrZero : 2 ^ ref.fracBits ≤ 4 ∧ 4 ≤ 6 * 2 ^ ref.fracBits := by decide
theorem witness_SynthesizedRefreshLength :
    2 ^ ref.fracBits ≤ 6 ∧ 6 ≤ 6 * 2 ^ ref.fracBits ∧ ∃ t, synthesize ref 6 true = .ok (some t) :=
  ⟨by decide, by decide, _, rfl⟩
theorem witness_SynthesizedRowsStayInBounds :
    2 ^ ref.fracBits ≤ 1 ∧ 1 ≤ 6 * 2 ^ ref.fracBits ∧ 6 < 7 ∧ ∃ t, synthesize ref 1 false = .ok (some t) :=
  ⟨by decide, by decide, by decide, _, rfl⟩
theorem witness_PowerAndModeCommandsComplete : busyLevel idleState = false := rfl
theorem witness_ImageCommandsComplete : busyLevel idleState = false := rfl
theorem witness_TableCommandsComplete : busyLevel (noWireState false) = false := rfl
theorem witness_RefreshCommandStartsRefresh : busyLevel idleState = false := rfl
theorem witness_PanelCommandSelectsSource :
    busyLevel idleState = false ∧ idleState.cfg.wf = true ∧ buildPsr idleState.cfg 8 1 .internal true true = .ok 0x9F :=
  ⟨rfl, by decide, rfl⟩
theorem witness_RawCommandCompletes :
    busyLevel idleState = false ∧ ∀ k ∈ Cmd.named, idleState.cfg.opc.byteOf k ≠ 0x30 := by decide
theorem witness_BusCommandHeldWhileBusy :
    wellFormed busyState.cfg (.bus 1) .cmdRefresh = true ∧ busyState.drv.hasBusy = true ∧ busyLevel busyState = true ∧
    ∀ n, busyState.cfg.busyTimeout = some n → busyState.ctl.polls < n :=
  ⟨rfl, rfl, rfl, nofun⟩

/-- A bounded poll of two, both used. -/
def timeoutState : State :=
  { busyState with cfg := { tinyCfg with busyTimeout := some 2 }, ctl := { busyState.ctl with polls := 2 } }

theorem witness_BusyTimeoutRaises :
    wellFormed timeoutState.cfg (.bus 1) .cmdPowerOn = true ∧ timeoutState.drv.hasBusy = true ∧ busyLevel timeoutState = true ∧
    timeoutState.cfg.busyTimeout = some 2 ∧ 2 ≤ timeoutState.ctl.polls := ⟨rfl, rfl, rfl, rfl, by decide⟩
theorem witness_BusCommandHeldWhileBusy_ready : idleState.drv.hasBusy = true ∧ busyLevel idleState = false := ⟨rfl, rfl⟩
theorem witness_BusyTimeout_one_left :
    busyLevel { timeoutState with ctl := { timeoutState.ctl with polls := 1 } } = true ∧
    ∀ n, timeoutState.cfg.busyTimeout = some n → 1 < n := ⟨rfl, by rintro _ ⟨⟩; decide⟩
theorem witness_NoBusyWireSendsAtOnce :
    wellFormed (noWireState true).cfg (.bus 1) (.cmdLutBw (zeros 42)) = true ∧ (noWireState true).drv.hasBusy = false ∧
    busyLevel (noWireState true) = true := ⟨by decide, rfl, rfl⟩
theorem witness_NoBusyWireSendsAtOnce_refresh :
    let s := { refreshState with drv := { refreshState.drv with hasBusy := false } }
    s.drv.hasBusy = false ∧ busyLevel s = true ∧ s.chip.engine.active = true := ⟨rfl, rfl, rfl⟩
theorem witness_UsedRowDrivesItsLine :
    (255 : Byte) ≠ 0 ∧ refreshState.chip.engine.lane ∉ refreshState.chip.engine.gap := by decide
theorem witness_RowMovesEngineOn :
    wellFormed refreshState.cfg (.row .vcom) (.phaseRow 0 0 0 0 9 0 0 0 1) = true ∧
    ∃ t, exec (.phaseRow 0 0 0 0 9 0 0 0 1) refreshState = .next t := ⟨by decide, _, rfl⟩
theorem witness_RefreshRunsItsTables :
    refreshState.chip.engine = Engine.start 0 programmedChip ∧ programmedChip.lutSrc = .known .programmed ∧
    programmedChip.tables.trailingSet = false ∧
    (∀ l, (programmedChip.tables.get l).loose = none ∧ 42 ≤ (programmedChip.tables.get l).last.length ∧
      UsedRowsFirst (programmedChip.tables.get l).last) ∧
    refreshState.env.turnFeed.take 35 = List.replicate 35 true := by
  refine ⟨rfl, rfl, by decide, ?_, by decide⟩
  intro l
  refine ⟨by cases l <;> rfl, by cases l <;> decide, ?_⟩
  intro r hr
  have : r < 6 := by omega
  interval_cases r <;> cases l <;> decide
theorem witness_InitLatchesConfiguration :
    idleState.ctl.running = false ∧
    resolutionOk idleState.cfg idleState.regs.cfgWidth.toNat idleState.regs.cfgHeight.toNat = true ∧
    2 ^ idleState.cfg.fracBits ≤ idleState.regs.argSpeed ∧ idleState.regs.argSpeed ≤ 6 * 2 ^ idleState.cfg.fracBits ∧
    (withRegs 0 0 0 idleState).regs.argSpeed = 0 := by decide
theorem witness_InitRunsToReturn :
    idleState.ctl.running = false ∧ idleState.ctl.todo = [] ∧ idleState.cfg.wf = true ∧ idleState.cfg.initRegs = [] ∧
    resolutionOk idleState.cfg idleState.regs.cfgWidth.toNat idleState.regs.cfgHeight.toNat = true ∧
    2 ^ idleState.cfg.fracBits ≤ idleState.regs.argSpeed ∧ idleState.regs.argSpeed ≤ 6 * 2 ^ idleState.cfg.fracBits ∧
    Quiet 15 idleState :=
  ⟨rfl, rfl, by decide, rfl, by decide, by decide, by decide, rfl, rfl⟩
theorem witness_SetSpeedLoadsTables :
    idleState.ctl.running = false ∧ idleState.ctl.inited = true ∧ idleState.cfg.wf = true ∧
    resolutionOk idleState.cfg idleState.drv.width idleState.drv.height = true ∧
    2 ^ idleState.cfg.fracBits ≤ idleState.regs.argSpeed ∧ idleState.regs.argSpeed ≤ 6 * 2 ^ idleState.cfg.fracBits ∧
    Quiet 10 idleState :=
  ⟨rfl, rfl, by decide, by decide, by decide, by decide, rfl, rfl⟩
theorem witness_SetSpeedZeroSelectsInternal :
    idleState.ctl.running = false ∧ idleState.ctl.inited = true ∧ idleState.cfg.wf = true ∧
    resolutionOk idleState.cfg idleState.drv.width idleState.drv.height = true ∧
    (withRegs 0 3 0 idleState).regs.argSpeed = 0 ∧ Quiet 4 (withRegs 0 3 0 idleState) :=
  ⟨rfl, rfl, by decide, by decide, rfl, rfl, rfl⟩
theorem witness_BusyUpdateIsNotStarted :
    busyState.ctl.running = false ∧ busyState.ctl.inited = true ∧ busyState.regs.argFlags.getLsbD 2 = false ∧
    busyState.drv.hasBusy = true ∧ busyLevel busyState = true := by decide
theorem witness_UpdateScriptOrder :
    (withRegs 0 0x0C 0 busyState).ctl.running = false ∧ (withRegs 0 0x0C 0 busyState).ctl.inited = true ∧
    (withRegs 0 0x0C 0 busyState).regs.argFlags.getLsbD 2 = true ∧ (noWireState true).drv.hasBusy = false ∧
    busyLevel idleState = false := by decide

theorem witness_UpdateScriptOrder_tables :
    idleState.cfg.wf = true ∧ 2 ^ idleState.cfg.fracBits ≤ idleState.drv.speed ∧
    idleState.drv.speed ≤ 6 * 2 ^ idleState.cfg.fracBits ∧ State.reset.cfg.wf = true ∧ State.reset.drv.speed = 0 := by
  decide

/-- A quiet chip, FR set, an update that does not inject, and the block's turns after the refresh command. -/
def nonBlockingState : State :=
  { idleState with
    drv := { idleState.drv with fr := true, fullPeriod := 3, updateCount := 4 }
    env := { idleState.env with turnFeed := [false, false, false] } }

theorem witness_NonBlockingUpdateTransfers :
    nonBlockingState.ctl.running = false ∧ nonBlockingState.ctl.inited = true ∧ nonBlockingState.cfg.opc.wf = true ∧
    nonBlockingState.regs.argFlags.getLsbD 2 = false ∧ ¬ (nonBlockingState.drv.fr = true ∧ 2 ^ nonBlockingState.cfg.fracBits ≤ nonBlockingState.drv.speed ∧ nonBlockingState.drv.fullPeriod ≠ 0 ∧
      nonBlockingState.drv.updateCount % nonBlockingState.drv.fullPeriod = 0) ∧
    Quiet 11 nonBlockingState ∧
    nonBlockingState.env.turnFeed.take 3 = [false, false, false] :=
  ⟨rfl, rfl, by decide, rfl, by decide, ⟨rfl, rfl⟩, rfl⟩

/-- A quiet chip, and the engine's turns after the refresh command. -/
def blockingState : State :=
  withRegs 0 4 0 { idleState with env := { idleState.env with turnFeed := List.replicate 35 true } }

theorem witness_BlockingUpdatePowersOff :
    blockingState.ctl.running = false ∧ blockingState.ctl.inited = true ∧ blockingState.cfg.opc.wf = true ∧
    blockingState.regs.argFlags.getLsbD 2 = true ∧ ¬ (blockingState.drv.fr = true ∧ 2 ^ blockingState.cfg.fracBits ≤ blockingState.drv.speed ∧ blockingState.drv.fullPeriod ≠ 0 ∧
      blockingState.drv.updateCount % blockingState.drv.fullPeriod = 0) ∧
    Quiet 51 blockingState ∧
    blockingState.env.turnFeed.take 35 = List.replicate 35 true :=
  ⟨rfl, rfl, by decide, rfl, by decide, ⟨rfl, rfl⟩, rfl⟩
theorem witness_WaitOffPowersOff :
    idleState.ctl.running = false ∧ idleState.ctl.inited = true ∧ idleState.cfg.opc.wf = true ∧ Quiet 7 idleState :=
  ⟨rfl, rfl, by decide, rfl, rfl⟩
theorem witness_IsBusyReturnsSample : busyState.ctl.running = false ∧ busyState.ctl.inited = true := by decide
theorem witness_FadeOutIsUnspecified : idleState.ctl.running = false ∧ idleState.ctl.inited = true := by decide
theorem witness_ReservedCodeIsConfigurationError :
    ((0x00 : Byte).toNat = 0 ∨ 8 ≤ (0x00 : Byte).toNat) ∧ ((0x08 : Byte).toNat = 0 ∨ 8 ≤ (0x08 : Byte).toNat) ∧
    State.reset.ctl.running = false := by decide
theorem witness_OperationBeforeInitIsUnspecified :
    State.reset.ctl.running = false ∧ State.reset.ctl.inited = false ∧
    (Instr.isBusy, HostOp.isBusy) ∈ [(Instr.setSpeed, HostOp.setSpeed), (.update, .update), (.greyRender, .greyRender),
      (.fadeOut, .fadeOut), (.waitOff, .waitOff), (.isBusy, .isBusy)] := by decide
theorem witness_FailedChecks_init :
    State.reset.ctl.running = false ∧
    resolutionOk State.reset.cfg State.reset.regs.cfgWidth.toNat State.reset.regs.cfgHeight.toNat = false ∧
    resolutionOk idleState.cfg idleState.regs.cfgWidth.toNat idleState.regs.cfgHeight.toNat = true ∧
    ((withRegs 7 0 0 idleState).regs.argSpeed ≠ 0 ∧ 6 * 2 ^ idleState.cfg.fracBits < (withRegs 7 0 0 idleState).regs.argSpeed) := by
  decide
theorem witness_FailedChecks_setSpeed :
    idleState.ctl.running = false ∧ idleState.ctl.inited = true ∧ (withRegs 7 0 0 idleState).regs.argSpeed ≠ 0 ∧
    ((withRegs 7 0 0 idleState).regs.argSpeed < 2 ^ idleState.cfg.fracBits ∨
      6 * 2 ^ idleState.cfg.fracBits < (withRegs 7 0 0 idleState).regs.argSpeed) := by decide
theorem witness_FailedChecks_greyLevels :
    idleState.ctl.inited = true ∧ (withRegs 0 0 0 idleState).regs.argG.toNat < 1 ∧
    32 < (withRegs 0 0 33 idleState).regs.argG.toNat := by decide
theorem witness_FailedChecks_greySpeed :
    idleState.ctl.inited = true ∧ (withRegs 0 0 32 idleState).regs.argG.toNat = 32 ∧ idleState.cfg.framesToBlack / 32 ≠ 0 ∧
    { idleState.drv with speed := 0 }.speed = 0 := by decide

/-- With 255 frames to black, two grey levels make a hold of 381 frames. -/
def longState : State := withRegs 0 0 2 { idleState with cfg := { tinyCfg with framesToBlack := 255 } }

theorem witness_FailedChecks_duration :
    longState.ctl.inited = true ∧ longState.drv.speed ≠ 0 ∧ longState.regs.argG.toNat = 2 ∧
    255 < longState.cfg.framesToBlack / 2 * (3 * ((2 - 2) / 3) + 3) := by decide
theorem witness_RunningOperationHoldsHost :
    wellFormed idleState.cfg .host .update = true ∧ (run1 .waitOff idleState).ctl.running = true := by decide
theorem witness_RunningOperation_step :
    (run1 .waitOff idleState).ctl.running = true ∧ ∃ t, step (run1 .waitOff idleState) = .next t := ⟨by decide, _, rfl⟩
theorem witness_GreyRenderBegins :
    let s := withRegs 0 0 32 idleState
    s.ctl.running = false ∧ s.ctl.inited = true ∧ s.drv.speed ≠ 0 ∧ 1 ≤ s.regs.argG.toNat ∧ s.regs.argG.toNat ≤ 32 ∧
    s.cfg.framesToBlack / s.regs.argG.toNat ≠ 0 ∧
    (2 ≤ s.regs.argG.toNat →
      s.cfg.framesToBlack / s.regs.argG.toNat * (3 * ((s.regs.argG.toNat - 2) / 3) + 3) ≤ 255) := by decide
theorem witness_OneLevelRenderOnlyRestores :
    let s := withRegs 0 0 1 idleState
    s.ctl.running = false ∧ s.ctl.inited = true ∧ s.cfg.opc.wf = true ∧ s.regs.argG = 1 ∧ s.cfg.framesToBlack ≠ 0 ∧
    2 ^ s.cfg.fracBits ≤ s.drv.speed ∧ s.drv.speed ≤ 6 * 2 ^ s.cfg.fracBits ∧ Quiet 10 s :=
  ⟨rfl, rfl, by decide, rfl, by decide, by decide, by decide, rfl, rfl⟩
theorem witness_NormalizeRoundsToNearest : 1 ≤ 1 ∧ 32 ≤ 32 ∧ (255 : Byte).toNat = 255 ∧ (0 : Byte).toNat = 0 := by decide
theorem witness_NormalizeRoundsToNearest_perform :
    let s := { idleState with grey := { idleState.grey with g := 32 } }
    s.mem.wf = true ∧ 1 ≤ s.grey.g ∧ s.grey.g ≤ 32 ∧ 7 < s.drv.width * s.drv.height ∧ Space.lum ≠ Space.lvl := by decide
theorem witness_GreyLevelsPartition :
    1 ≤ 32 ∧ 32 ≤ 32 ∧ (31 : Byte).toNat < 32 ∧ ref.framesToBlack / 32 ≠ 0 ∧ 30 % 3 = 0 ∧ greyClass 30 31 ≠ .bw := by decide
theorem witness_MasksEncodeClasses :
    (idleState.drv.width * idleState.drv.height) % 8 = 0 ∧
    ∃ e : Engine, e.prev = .known ((buildMasks 0 idleState).mem.maskOld.readRange 0 1) ∧
      e.cur = .known ((buildMasks 0 idleState).mem.maskNew.readRange 0 1) ∧ 7 < idleState.drv.width * idleState.drv.height :=
  ⟨by decide, { Engine.idle with
      prev := .known ((buildMasks 0 idleState).mem.maskOld.readRange 0 1)
      cur := .known ((buildMasks 0 idleState).mem.maskNew.readRange 0 1) }, rfl, rfl, by decide⟩

/-- At the head of the pass loop of a render with two grey levels, all pixels of level 1. -/
def loopState (g : Nat) : State :=
  { idleState with
    grey := { idleState.grey with g := 2 }
    ctl := { idleState.ctl with todo := [.greyLoop g, .ret true] }
    mem := { idleState.mem with lvl := Memory.ofBytes 0 (List.replicate 8 1) } }

theorem witness_GreyLoopPerformsMatchingPasses :
    engineTurn (loopState 0) = false ∧ (loopState 0).ctl.todo = .greyLoop 0 :: [.ret true] ∧ 0 + 2 ≤ (loopState 0).grey.g ∧
    (buildMasks 0 (loopState 0)).ctl.any = true := by decide
theorem witness_GreyLoop_past_the_last :
    engineTurn (loopState 3) = false ∧ (loopState 3).ctl.todo = .greyLoop 3 :: [.ret true] ∧ (loopState 3).grey.g < 3 + 2 := by
  decide
theorem witness_GreyLoop_no_pixel :
    (buildMasks 0 { loopState 0 with mem := { idleState.mem with lvl := [] } }).ctl.any = false := by decide

/-- The host's next access is the code of IS_BUSY. -/
def hostState : State := { idleState with env := { idleState.env with hostIn := [.write 0 7] } }

/-- The script's next action is the power-on command. -/
def sendState : State := { idleState with ctl := { idleState.ctl with todo := [.send .powerOn (.bytes [])] } }

theorem witness_StepRunsDecodedInstruction_host :
    engineTurn hostState = false ∧ hostState.ctl.todo = [] ∧ hostState.ctl.running = false ∧
    hostState.env.hostIn = .write 0 7 :: [] ∧ decode hostState.cfg .host [BitVec.ofNat 8 7] = .ok .isBusy :=
  ⟨rfl, rfl, rfl, rfl, rfl⟩
theorem witness_StepRunsDecodedInstruction_bus :
    engineTurn sendState = false ∧ sendState.ctl.todo = .send .powerOn (.bytes []) :: [] ∧
    sendBytes sendState .powerOn (.bytes []) = .ok [0x04] ∧ decode sendState.cfg (.bus sendState.drv.nb) [0x04] = .ok .cmdPowerOn :=
  ⟨rfl, rfl, rfl, rfl⟩
theorem witness_StepRunsDecodedInstruction_row :
    engineTurn refreshState = true ∧
    decode refreshState.cfg (.row refreshState.chip.engine.lane) refreshState.chip.engine.fetch =
      .ok (.unusedRow 0 0 0 0 0 0 0 0) := ⟨rfl, rfl⟩
theorem witness_StepKeepsParameters : ∃ t, step hostState = .next t := ⟨_, rfl⟩
theorem witness_StepKeepsMemoryCanonical :
    idleState.mem.wf = true ∧
    ∃ t, step { idleState with env := { idleState.env with hostIn := [.fill .lum 7 0xAD] } } = .next t :=
  ⟨by decide, _, rfl⟩
theorem witness_StepKeepsBusyGate : gated sendState.log.trace = true ∧ ∃ t, step sendState = .next t := ⟨rfl, _, rfl⟩
theorem witness_StepKeepsPinFraming : pinsOk sendState = true ∧ ∃ t, step sendState = .next t := ⟨rfl, _, rfl⟩
theorem witness_StepKeepsPinFraming_reset :
    pinsOk { idleState with
      pins := { idleState.pins with resetN := false }
      log := { idleState.log with wire := [.resetN false] }
      ctl := { idleState.ctl with todo := [.resetPin true, .ret true] } } = true ∧
    pinsOk { idleState with log := { idleState.log with wire := [.csAssert, .byte 4, .csRelease] } } = false := by decide
theorem witness_StepKeepsRegisterShape :
    registersOk idleState = true ∧
    ∃ t, step { idleState with env := { idleState.env with hostIn := [.write 3 0xFF] } } = .next t := ⟨by decide, _, rfl⟩
theorem witness_StepKeepsTableLengths : (loopState 0).tabs.sized = true ∧ ∃ t, step (loopState 0) = .next t := by
  exact ⟨by decide, _, rfl⟩
theorem witness_CounterOnlyClearsOrCounts :
    ∃ t, step { idleState with ctl := { idleState.ctl with todo := [.bumpCount] } } = .next t ∧ t.drv.updateCount = 1 :=
  ⟨_, rfl, rfl⟩
theorem witness_MemoryWriteReadsBack : Memory.wf [(0, 1), (2, 3)] = true ∧ (1 : Nat) ≠ 0 := by decide
theorem witness_RangeReadsEachByte : Memory.wf [(0, 1), (2, 3)] = true := by decide
theorem witness_StatusFieldPositions :
    State.reset.tabs.vcom[43]? = some 0 ∧ State.reset.tabs.bw[41]? = some 0 ∧ (0x0C < 0x0D ∧ 0x0D < 0x100) ∧ 0x229 < 0x22A ∧
      refreshState.chip.engine.active = true := by
  decide
/-- The host's next access is this one. -/
def accessState (h : HostAct) : State := { idleState with env := { idleState.env with hostIn := [h] } }

theorem witness_OperandRegistersReadBack_write :
    let s := accessState (.write 1 9)
    engineTurn s = false ∧ s.ctl.todo = [] ∧ s.ctl.running = false ∧ (1 : Nat) ≠ 0 ∧ s.env.hostIn = .write 1 9 :: [] := by
  decide
theorem witness_OperandRegistersReadBack_fill :
    let s := accessState (.fill .fb0 0 0)
    engineTurn s = false ∧ s.ctl.todo = [] ∧ s.ctl.running = false ∧ s.mem.wf = true ∧ 0 < hostSpaceSize s .fb0 ∧
      7 < hostSpaceSize s .lum ∧ ¬ 1 < hostSpaceSize s .fb0 ∧ s.env.hostIn = .fill .fb0 0 0 :: [] := by decide
theorem witness_OperandRegistersReadBack : ((1 : Nat) = 1 ∨ 9 ≤ 1) ∧ ((9 : Nat) = 1 ∨ 9 ≤ 9) := by decide

end Sys2Proof.Machine.Tests
end

section
/-!
PROOFS. The parameters of spec/00_scope.md R7 are no state (spec/10_state.md R38): every part of a step keeps them.
-/
namespace Sys2Proof.Machine

/-! ### What the actions that can raise or branch do -/

/-- The synthesizer fills the buffers, leaves them at speed 0, or raises the error of a row (R141, R97). -/
theorem doSynth_cases (q : Nat) (fr : Bool) (s : State) :
    (∃ t, synthesize s.cfg q fr = .ok (some t) ∧ doSynth q fr s = advance { s with tabs := t }) ∨
    (synthesize s.cfg q fr = .ok none ∧ doSynth q fr s = advance s) ∨
    (∃ c, synthesize s.cfg q fr = .error c ∧ doSynth q fr s = raise .configuration c s) := by
  unfold doSynth
  split
  · next t h => exact .inl ⟨t, h, rfl⟩
  · next h => exact .inr (.inl ⟨h, rfl⟩)
  · next c h => exact .inr (.inr ⟨c, h, rfl⟩)

/-- The tables of a pass go to the buffers, or the error of a row is raised (R227, R97). -/
theorem doGreyTables_cases (s : State) :
    (∃ t, greyTablesOf s.cfg s.grey.n1 s.grey.n2 s.grey.n3 = .ok t ∧ doGreyTables s = advance { s with tabs := t }) ∨
    (∃ c, greyTablesOf s.cfg s.grey.n1 s.grey.n2 s.grey.n3 = .error c ∧
      doGreyTables s = raise .configuration c s) := by
  unfold doGreyTables
  split
  · next t h => exact .inl ⟨t, h, rfl⟩
  · next c h => exact .inr ⟨c, h, rfl⟩

/-! ### The parameters under each part of a step -/

/-- A `send` keeps the parameters, whether the gate holds it or lets it through. -/
@[simp] theorem busSend_cfg (c : Cmd) (data : List Byte) (eff : ChipEffect) (s : State) :
    (busSend c data eff s).cfg = s.cfg := by
  rcases busSend_cases c data eff s with ⟨-, -, h⟩ | ⟨-, chip, -, -, h⟩ <;> simp [h]

@[simp] theorem doSetSeq_cfg (q : Seq) (s : State) : (doSetSeq q s).cfg = s.cfg := rfl

@[simp] theorem doWaitReady_cfg (s : State) : (doWaitReady s).cfg = s.cfg := by
  rcases doWaitReady_cases s with ⟨-, h⟩ | ⟨-, h⟩ <;> simp [h]

@[simp] theorem doResetPin_cfg (high : Bool) (s : State) : (doResetPin high s).cfg = s.cfg := by
  cases high <;> rfl

@[simp] theorem doSynth_cfg (q : Nat) (fr : Bool) (s : State) : (doSynth q fr s).cfg = s.cfg := by
  rcases doSynth_cases q fr s with ⟨t, -, h⟩ | ⟨-, h⟩ | ⟨c, -, h⟩ <;> simp [h]

@[simp] theorem doNormalise_cfg (s : State) : (doNormalise s).cfg = s.cfg := rfl

@[simp] theorem doGreyLoop_cfg (g : Nat) (s : State) : (doGreyLoop g s).cfg = s.cfg := by
  unfold doGreyLoop
  split
  · dsimp only [advance_cfg]
    split <;> simp
  · simp

@[simp] theorem doGreyTables_cfg (s : State) : (doGreyTables s).cfg = s.cfg := by
  rcases doGreyTables_cases s with ⟨t, -, h⟩ | ⟨c, -, h⟩ <;> simp [h]

@[simp] theorem doCount_cfg (n : Nat) (s : State) : (doCount n s).cfg = s.cfg := rfl

@[simp] theorem doSetInited_cfg (s : State) : (doSetInited s).cfg = s.cfg := rfl

/-- No action of a script changes the parameters. -/
@[simp] theorem perform_cfg (a : Action) (s : State) : (perform a s).cfg = s.cfg := by
  cases a <;> simp [perform]

/-- A fill by the host keeps the parameters. -/
theorem hostFill_cfg {s t : State} {sp : HostSpace} {a : Nat} {b : Byte} (h : hostFill s sp a b = .next t) :
    t.cfg = s.cfg := by
  rcases hostFill_cases s sp a b with ⟨-, hf⟩ | ⟨-, hf⟩ <;> rw [hf] at h <;> cases h
  rfl

/-- An operation keeps the parameters when what it does once accepted does. -/
theorem hostOp_cfg {op : HostOp} {body : State → State} (hbody : ∀ s, (body s).cfg = s.cfg) (s : State) :
    (hostOp op body s).cfg = s.cfg := by
  rcases hostOp_cases op body s with ⟨-, h⟩ | ⟨-, -, -, h⟩ | ⟨-, -, h⟩ <;> simp [h, hbody]

@[simp] theorem beginUpdate_cfg (s : State) : (beginUpdate s).cfg = s.cfg := rfl

/-! ### The host instructions -/

theorem execInit_cfg {s t : State} (h : execInit s = .next t) : t.cfg = s.cfg := by
  cases h
  refine hostOp_cfg (fun s => ?_) s
  split
  · simp
  · split <;> simp

theorem execSetSpeed_cfg {s t : State} (h : execSetSpeed s = .next t) : t.cfg = s.cfg := by
  cases h
  refine hostOp_cfg (fun s => ?_) s
  split <;> simp

theorem execUpdate_cfg {s t : State} (h : execUpdate s = .next t) : t.cfg = s.cfg := by
  cases h
  refine hostOp_cfg (fun s => ?_) s
  split
  · simp
  · split <;> simp

theorem execGreyRender_cfg {s t : State} (h : execGreyRender s = .next t) : t.cfg = s.cfg := by
  cases h
  refine hostOp_cfg (fun s => ?_) s
  dsimp only
  repeat' split
  all_goals simp

theorem execFadeOut_cfg {s t : State} (h : execFadeOut s = .next t) : t.cfg = s.cfg := by
  cases h
  exact hostOp_cfg (fun s => raise_cfg _ _ s) s

theorem execWaitOff_cfg {s t : State} (h : execWaitOff s = .next t) : t.cfg = s.cfg := by
  cases h
  exact hostOp_cfg (fun s => start_cfg _ s) s

theorem execIsBusy_cfg {s t : State} (h : execIsBusy s = .next t) : t.cfg = s.cfg := by
  cases h
  exact hostOp_cfg (fun s => by simp) s

theorem execHostReserved_cfg {code : Byte} {s t : State} (h : execHostReserved code s = .next t) :
    t.cfg = s.cfg := by
  cases h
  split <;> simp

/-- No code the host writes to CMD changes the parameters (R105, R107). -/
theorem exec_hostOfCode_cfg {b : Byte} {s t : State} (h : exec (hostOfCode b) s = .next t) : t.cfg = s.cfg := by
  rcases hostOfCode_cases b with hb | hb | hb | hb | hb | hb | hb | hb <;> rw [hb] at h
  · exact execInit_cfg h
  · exact execSetSpeed_cfg h
  · exact execUpdate_cfg h
  · exact execGreyRender_cfg h
  · exact execFadeOut_cfg h
  · exact execWaitOff_cfg h
  · exact execIsBusy_cfg h
  · exact execHostReserved_cfg (code := b) h

/-- Settles O48: each part of a step keeps the parameters the step began with. -/
theorem stepKeepsParameters : Obligations.StepKeepsParameters := by
  intro s t h
  exact step_keeps (P := fun u => u.cfg = s.cfg)
    (hturn := fun u hu => (turned_cfg u).trans hu)
    (htaken := fun u hu => (hostTaken_cfg u).trans hu)
    (hcmd := fun v u hu => (writeCmd_cfg v u).trans hu)
    (hrow := fun r u hu => (runRow_cfg r u).trans hu)
    (hsend := fun _ _ _ c data eff u _ hu => (busSend_cfg c data eff u).trans hu)
    (hraise := fun _ _ _ e u _ hu => (raise_cfg .configuration e u).trans hu)
    (hperform := fun a _ u _ hu => (perform_cfg a u).trans hu)
    (hfill := fun _ _ _ _ _ hu hf => (hostFill_cfg hf).trans hu)
    (hwrite := fun off v u hu => (hostWrite_cfg off v u).trans hu)
    (hhost := fun _ _ _ _ hu he => (exec_hostOfCode_cfg he).trans hu)
    rfl h

end Sys2Proof.Machine
end

section
/-!
PROOFS. What one step can do to the registers the host and the block hold: the operand registers, the driver state, the
table buffers and CS. Said once as `RegisterChange`; the invariants over these registers follow from it
(spec/10_state.md R21, R23, R31, R33, R35).
-/
namespace Sys2Proof.Machine

/-! ### States with the same registers -/

/-- The parameters, the operand registers, the driver state and the table buffers are as before, and a released CS is
still released. -/
structure SameRegisters (s t : State) : Prop where
  cfg  : t.cfg = s.cfg
  regs : t.regs = s.regs
  drv  : t.drv = s.drv
  tabs : t.tabs = s.tabs
  cs   : s.pins.cs = false → t.pins.cs = false

theorem SameRegisters.refl (s : State) : SameRegisters s s := ⟨rfl, rfl, rfl, rfl, id⟩

theorem SameRegisters.trans {s t u : State} (h : SameRegisters s t) (k : SameRegisters t u) : SameRegisters s u :=
  ⟨k.cfg.trans h.cfg, k.regs.trans h.regs, k.drv.trans h.drv, k.tabs.trans h.tabs, k.cs ∘ h.cs⟩

/-- States that differ in nothing but sequencer, memory, chip, environment and logs. -/
theorem SameRegisters.of_pins {s t : State} (hcfg : t.cfg = s.cfg := by simp)
    (hregs : t.regs = s.regs := by simp) (hdrv : t.drv = s.drv := by simp) (htabs : t.tabs = s.tabs := by simp)
    (hpins : t.pins = s.pins := by simp) : SameRegisters s t :=
  ⟨hcfg, hregs, hdrv, htabs, by simp [hpins]⟩

/-! ### The shared operations -/

theorem turned_sameRegisters (s : State) : SameRegisters s (turned s) := ⟨rfl, rfl, rfl, rfl, id⟩

theorem hostTaken_sameRegisters (s : State) : SameRegisters s (hostTaken s) := ⟨rfl, rfl, rfl, rfl, id⟩

theorem accept_sameRegisters (op : Option HostOp) (s : State) : SameRegisters s (accept op s) :=
  ⟨rfl, rfl, rfl, rfl, id⟩

theorem raise_sameRegisters (e : ErrClass) (c : Cause) (s : State) : SameRegisters s (raise e c s) :=
  ⟨rfl, rfl, rfl, rfl, id⟩

theorem ret_sameRegisters (v : Bool) (s : State) : SameRegisters s (ret v s) := ⟨rfl, rfl, rfl, rfl, id⟩

theorem start_sameRegisters (l : List Action) (s : State) : SameRegisters s (start l s) := ⟨rfl, rfl, rfl, rfl, id⟩

theorem advance_sameRegisters (s : State) : SameRegisters s (advance s) := ⟨rfl, rfl, rfl, rfl, id⟩

theorem afterIsBusy_sameRegisters (s : State) : SameRegisters s (afterIsBusy s) := .of_pins

theorem held_sameRegisters (s : State) : SameRegisters s (held s) := .of_pins

theorem runRow_sameRegisters (r : RowOp) (s : State) : SameRegisters s (runRow r s) := .of_pins

/-- A `send` changes no register of the block, and leaves CS released when it lets a transaction out (R173). -/
theorem busSend_sameRegisters (c : Cmd) (data : List Byte) (eff : ChipEffect) (s : State) :
    SameRegisters s (busSend c data eff s) := by
  rcases busSend_cases c data eff s with ⟨-, -, h⟩ | ⟨-, chip, -, -, h⟩ <;> rw [h]
  · exact (afterIsBusy_sameRegisters s).trans (held_sameRegisters _)
  · exact ⟨by simp, by simp, by simp, by simp, by simp⟩

theorem doWaitReady_sameRegisters (s : State) : SameRegisters s (doWaitReady s) := by
  rcases doWaitReady_cases s with ⟨-, h⟩ | ⟨-, h⟩ <;> rw [h]
  · exact (afterIsBusy_sameRegisters s).trans (held_sameRegisters _)
  · exact (afterIsBusy_sameRegisters s).trans (advance_sameRegisters _)

theorem doResetPin_sameRegisters (high : Bool) (s : State) : SameRegisters s (doResetPin high s) := by
  cases high <;> exact ⟨rfl, rfl, rfl, rfl, id⟩

theorem doGreyLoop_sameRegisters (g : Nat) (s : State) : SameRegisters s (doGreyLoop g s) := by
  unfold doGreyLoop
  split
  · dsimp only
    split <;> exact ⟨rfl, rfl, rfl, rfl, id⟩
  · exact advance_sameRegisters s

/-! ### The lengths of the tables that are written (spec/40_lut_synthesizer.md R138, spec/42 R227) -/

/-- SET_LUT_ROW keeps the length of a table of seven rows (R97). -/
theorem setLutRow_length {t u : List Byte} {r : Int} {a : RowArgs} (ht : 42 ≤ t.length)
    (h : setLutRow t r a = .ok u) : u.length = t.length := by
  unfold setLutRow at h
  split at h
  · cases h
  · split at h
    · cases h
      simp [RowArgs.bytes]
      omega
    · cases h

/-- Rows written one after the other keep the length of the table. -/
theorem setRows_length {as : List RowArgs} {t u : List Byte} {r : Int} (ht : 42 ≤ t.length)
    (h : setRows t r as = .ok u) : u.length = t.length := by
  induction as generalizing t r with
  | nil =>
    cases h
    rfl
  | cons a as ih =>
    unfold setRows at h
    split at h
    · next t' hrow =>
      have hlen := setLutRow_length ht hrow
      exact (ih (by omega) h).trans hlen
    · cases h

/-- A chain of table writes that answers has answered at its first write. -/
theorem Except.bind_eq_ok {α β : Type} {x : Except Cause α} {f : α → Except Cause β} {b : β}
    (h : x >>= f = .ok b) : ∃ a, x = .ok a ∧ f a = .ok b := by
  cases x with
  | error c => cases h
  | ok a => exact ⟨a, rfl, h⟩

@[simp] theorem zeros_length (n : Nat) : (zeros n).length = n := List.length_replicate

/-- The tables of a synthesis have the lengths of the buffers. -/
theorem synthesize_sized {c : Config} {q : Nat} {fr : Bool} {t : Tables} (h : synthesize c q fr = .ok (some t)) :
    t.sized = true := by
  unfold synthesize at h
  split at h
  · cases h
  · obtain ⟨bw, hbw, h⟩ := Except.bind_eq_ok h
    obtain ⟨wb, hwb, h⟩ := Except.bind_eq_ok h
    obtain ⟨vcom, hvcom, h⟩ := Except.bind_eq_ok h
    have hbw := setRows_length (by simp) hbw
    have hwb := setRows_length (by simp) hwb
    have hvcom := setRows_length (by simp) hvcom
    cases h
    cases fr <;> simp_all [Tables.sized]

/-- The tables of a greyscale pass have the lengths of the buffers. -/
theorem greyTablesOf_sized {c : Config} {n1 n2 n3 : Byte} {t : Tables} (h : greyTablesOf c n1 n2 n3 = .ok t) :
    t.sized = true := by
  unfold greyTablesOf at h
  obtain ⟨ww, hww, h⟩ := Except.bind_eq_ok h
  obtain ⟨bb, hbb, h⟩ := Except.bind_eq_ok h
  obtain ⟨wb, hwb, h⟩ := Except.bind_eq_ok h
  obtain ⟨vcom, hvcom, h⟩ := Except.bind_eq_ok h
  have hww := setLutRow_length (by simp) hww
  have hbb := setLutRow_length (by simp) hbb
  have hwb := setLutRow_length (by simp) hwb
  have hvcom := setLutRow_length (by simp) hvcom
  cases h
  simp_all [Tables.sized]

/-! ### What a step does to the registers -/

/-- The ways in which a part of a step changes these registers; the second state has the new ones. -/
inductive RegisterChange (s : State) : State → Prop
  | none : RegisterChange s s
  /-- UPDATE_COUNT is cleared or counts (R23). -/
  | count (n : Nat) (hn : n = s.drv.updateCount + 1 ∨ n = 0) :
      RegisterChange s { s with drv := { s.drv with updateCount := n } }
  /-- The table buffers are written whole (R31). -/
  | tables (t : Tables) (ht : t.sized = true) : RegisterChange s { s with tabs := t }
  /-- The host writes at an offset other than CMD (R33). -/
  | write (off v : Nat) : RegisterChange s (hostWrite off v s)
  /-- The host writes a code to CMD (R33). -/
  | code (v : Nat) : RegisterChange s (writeCmd v s)
  /-- INIT latches the configuration, SPEED after its check (R175). -/
  | latchConfig (v : Nat) (hq : speedOk s.cfg s.regs.argSpeed = true) :
      RegisterChange s (Machine.latchConfig (writeCmd v s))
  /-- SET_SPEED latches SPEED after its check (R176). -/
  | latchSpeed (v : Nat) (hq : speedOk s.cfg s.regs.argSpeed = true) :
      RegisterChange s (Machine.latchSpeed (writeCmd v s))

/-- An action of a script changes the counter, the table buffers, or none of these registers. -/
theorem perform_registers (a : Action) (s : State) :
    SameRegisters s (perform a s) ∨
    (∃ n, (n = s.drv.updateCount + 1 ∨ n = 0) ∧ perform a s = doCount n s) ∨
    (∃ t, t.sized = true ∧ perform a s = advance { s with tabs := t }) := by
  have synth : ∀ q fr, SameRegisters s (doSynth q fr s) ∨
      ∃ t, t.sized = true ∧ doSynth q fr s = advance { s with tabs := t } := by
    intro q fr
    rcases doSynth_cases q fr s with ⟨t, ht, h⟩ | ⟨-, h⟩ | ⟨c, -, h⟩
    · exact .inr ⟨t, synthesize_sized ht, h⟩
    · exact .inl (h ▸ advance_sameRegisters s)
    · exact .inl (h ▸ raise_sameRegisters _ _ s)
  cases a with
  | setSeq q => exact .inl ⟨rfl, rfl, rfl, rfl, id⟩
  | send c d => exact .inl (.refl s)
  | waitReady => exact .inl (doWaitReady_sameRegisters s)
  | resetPin high => exact .inl (doResetPin_sameRegisters high s)
  | synth => exact (synth s.drv.speed s.drv.fr).imp_right .inr
  | synthFull => exact (synth s.cfg.fullSpeed false).imp_right .inr
  | normalise => exact .inl ⟨rfl, rfl, rfl, rfl, id⟩
  | greyLoop g => exact .inl (doGreyLoop_sameRegisters g s)
  | greyTables =>
    rcases doGreyTables_cases s with ⟨t, ht, h⟩ | ⟨c, -, h⟩
    · exact .inr (.inr ⟨t, greyTablesOf_sized ht, h⟩)
    · exact .inl (h.symm ▸ raise_sameRegisters _ _ s : SameRegisters s (doGreyTables s))
  | clearCount => exact .inr (.inl ⟨0, .inr rfl, rfl⟩)
  | bumpCount => exact .inr (.inl ⟨_, .inl rfl, rfl⟩)
  | setInited => exact .inl ⟨rfl, rfl, rfl, rfl, id⟩
  | ret v => exact .inl (ret_sameRegisters v s)

/-- An operation whose accepted part changes none of these registers changes none of them. -/
theorem hostOp_sameRegisters {op : HostOp} {body : State → State} (hbody : ∀ s, SameRegisters s (body s))
    (s : State) : SameRegisters s (hostOp op body s) := by
  rcases hostOp_cases op body s with ⟨-, h⟩ | ⟨-, -, -, h⟩ | ⟨-, -, h⟩ <;> rw [h]
  · exact .refl s
  · exact (accept_sameRegisters _ s).trans (raise_sameRegisters _ _ _)
  · exact (accept_sameRegisters _ s).trans (hbody _)

/-- An operation whose accepted part changes none of these registers, or latches a legal speed among others, does so as a
whole. -/
theorem hostOp_latches {op : HostOp} {body latch : State → State}
    (hlatch : ∀ s, SameRegisters (latch s) (latch (accept (some op) s)))
    (hbody : ∀ s, SameRegisters s (body s) ∨
      (speedOk s.cfg s.regs.argSpeed = true ∧ SameRegisters (latch s) (body s))) (s : State) :
    SameRegisters s (hostOp op body s) ∨
      (speedOk s.cfg s.regs.argSpeed = true ∧ SameRegisters (latch s) (hostOp op body s)) := by
  rcases hostOp_cases op body s with ⟨-, h⟩ | ⟨-, -, -, h⟩ | ⟨-, -, h⟩ <;> rw [h]
  · exact .inl (.refl s)
  · exact .inl ((accept_sameRegisters _ s).trans (raise_sameRegisters _ _ _))
  · exact (hbody _).imp (accept_sameRegisters _ s).trans (And.imp_right (hlatch s).trans)

/-- INIT latches the configuration with a legal speed, or changes none of these registers (R175). -/
theorem execInit_registers {s t : State} (h : execInit s = .next t) :
    SameRegisters s t ∨ (speedOk s.cfg s.regs.argSpeed = true ∧ SameRegisters (latchConfig s) t) := by
  cases h
  refine hostOp_latches (fun s => ⟨rfl, rfl, rfl, rfl, id⟩) (fun s => ?_) s
  split
  · exact .inl (raise_sameRegisters _ _ s)
  · split
    · exact .inl (raise_sameRegisters _ _ s)
    · next hq => exact .inr ⟨by simpa using hq, start_sameRegisters _ _⟩

/-- SET_SPEED latches a legal speed, or changes none of these registers (R176). -/
theorem execSetSpeed_registers {s t : State} (h : execSetSpeed s = .next t) :
    SameRegisters s t ∨ (speedOk s.cfg s.regs.argSpeed = true ∧ SameRegisters (latchSpeed s) t) := by
  cases h
  refine hostOp_latches (fun s => ⟨rfl, rfl, rfl, rfl, id⟩) (fun s => ?_) s
  split
  · exact .inl (raise_sameRegisters _ _ s)
  · next hq => exact .inr ⟨by simpa using hq, start_sameRegisters _ _⟩

theorem beginUpdate_sameRegisters (s : State) : SameRegisters s (beginUpdate s) := ⟨rfl, rfl, rfl, rfl, id⟩

theorem execUpdate_sameRegisters {s t : State} (h : execUpdate s = .next t) : SameRegisters s t := by
  cases h
  refine hostOp_sameRegisters (fun s => ?_) s
  split
  · exact beginUpdate_sameRegisters s
  · split
    · exact (afterIsBusy_sameRegisters s).trans (ret_sameRegisters _ _)
    · exact (afterIsBusy_sameRegisters s).trans (beginUpdate_sameRegisters _)

theorem execGreyRender_sameRegisters {s t : State} (h : execGreyRender s = .next t) : SameRegisters s t := by
  cases h
  refine hostOp_sameRegisters (fun s => ?_) s
  dsimp only
  repeat' split
  all_goals exact ⟨rfl, rfl, rfl, rfl, id⟩

theorem execFadeOut_sameRegisters {s t : State} (h : execFadeOut s = .next t) : SameRegisters s t := by
  cases h
  exact hostOp_sameRegisters (raise_sameRegisters _ _) s

theorem execWaitOff_sameRegisters {s t : State} (h : execWaitOff s = .next t) : SameRegisters s t := by
  cases h
  exact hostOp_sameRegisters (start_sameRegisters _) s

theorem execIsBusy_sameRegisters {s t : State} (h : execIsBusy s = .next t) : SameRegisters s t := by
  cases h
  exact hostOp_sameRegisters (fun s => (afterIsBusy_sameRegisters s).trans (ret_sameRegisters _ _)) s

theorem execHostReserved_sameRegisters {code : Byte} {s t : State} (h : execHostReserved code s = .next t) :
    SameRegisters s t := by
  cases h
  split
  · exact .refl s
  · exact (accept_sameRegisters _ s).trans (raise_sameRegisters _ _ _)

/-- A host code latches a legal speed with INIT or SET_SPEED, or changes none of these registers (R105, R107). -/
theorem exec_hostOfCode_registers {b : Byte} {s t : State} (h : exec (hostOfCode b) s = .next t) :
    SameRegisters s t ∨ (speedOk s.cfg s.regs.argSpeed = true ∧
      (SameRegisters (latchConfig s) t ∨ SameRegisters (latchSpeed s) t)) := by
  rcases hostOfCode_cases b with hb | hb | hb | hb | hb | hb | hb | hb <;> rw [hb] at h
  · exact (execInit_registers h).imp_right (And.imp_right .inl)
  · exact (execSetSpeed_registers h).imp_right (And.imp_right .inr)
  · exact .inl (execUpdate_sameRegisters h)
  · exact .inl (execGreyRender_sameRegisters h)
  · exact .inl (execFadeOut_sameRegisters h)
  · exact .inl (execWaitOff_sameRegisters h)
  · exact .inl (execIsBusy_sameRegisters h)
  · exact .inl (execHostReserved_sameRegisters (code := b) h)

/-- A step makes one of the register changes, and nothing else to these registers. -/
theorem step_registerChange {s t : State} (h : step s = .next t) : ∃ u, RegisterChange s u ∧ SameRegisters u t := by
  have hturn := turned_sameRegisters s
  rcases step_cases h with ⟨-, rfl⟩ | ⟨_, _, _, c, data, eff, -, rfl⟩ | ⟨_, _, _, e, -, rfl⟩ | ⟨a, _, -, -, rfl⟩ |
    rfl | ⟨-, -, ⟨sp, a, b, h⟩ | ⟨off, v, rfl⟩ | ⟨v, h⟩⟩
  · exact ⟨s, .none, hturn.trans (runRow_sameRegisters _ _)⟩
  · exact ⟨s, .none, hturn.trans (busSend_sameRegisters _ _ _ _)⟩
  · exact ⟨s, .none, hturn.trans (raise_sameRegisters _ _ _)⟩
  · rcases perform_registers a (turned s) with h | ⟨n, hn, h⟩ | ⟨tabs, ht, h⟩
    · exact ⟨s, .none, hturn.trans h⟩
    · exact ⟨_, .count n hn, h ▸ ⟨rfl, rfl, rfl, rfl, id⟩⟩
    · exact ⟨_, .tables tabs ht, h ▸ ⟨rfl, rfl, rfl, rfl, id⟩⟩
  · exact ⟨s, .none, hturn⟩
  · rcases hostFill_cases (hostTaken (turned s)) sp a b with ⟨-, hf⟩ | ⟨-, hf⟩ <;> rw [hf] at h <;> cases h
    exact ⟨s, .none, ⟨rfl, rfl, rfl, rfl, id⟩⟩
  · exact ⟨_, .write off v, ⟨rfl, rfl, rfl, rfl, id⟩⟩
  · rcases exec_hostOfCode_registers h with h | ⟨hq, h | h⟩
    · exact ⟨_, .code v, h.cfg, h.regs, h.drv, h.tabs, h.cs⟩
    · exact ⟨_, .latchConfig v hq, h.cfg, h.regs, h.drv, h.tabs, h.cs⟩
    · exact ⟨_, .latchSpeed v hq, h.cfg, h.regs, h.drv, h.tabs, h.cs⟩

/-! ### The register shape (R21, R33, R35) -/

/-- The operand registers keep their widths and reserved bits. -/
def OperandsOk (c : Config) (r : HostRegs) : Prop :=
  r.argSpeed < 2 ^ (3 + c.fracBits) ∧ r.argFlags &&& 0xF0 = 0 ∧ r.cfgFlags &&& 0xF8 = 0

theorem registersOk_iff (s : State) :
    registersOk s = true ↔
      OperandsOk s.cfg s.regs ∧ speedOk s.cfg s.drv.speed = true ∧ s.pins.cs = false := by
  simp [registersOk, OperandsOk, and_assoc]

/-- A mask leaves nothing where another one has no bit in common with it. -/
theorem and_and_of_disjoint (b : Byte) {m n : Byte} (h : m &&& n = 0) : b &&& m &&& n = 0 := by
  rw [BitVec.and_assoc, h]
  exact BitVec.and_zero

/-- A host write cuts its value to the width of the register and clears the reserved bits (R33, R35). -/
theorem OperandsOk.hostStore {c : Config} {r : HostRegs} (off v : Nat) (h : OperandsOk c r) :
    OperandsOk c (hostStore c off v r) := by
  obtain ⟨hspeed, hflags, hcfg⟩ := h
  unfold Machine.hostStore
  split
  · exact ⟨Nat.mod_lt _ (by positivity), hflags, hcfg⟩
  · exact ⟨hspeed, and_and_of_disjoint _ (by decide), hcfg⟩
  · exact ⟨hspeed, hflags, hcfg⟩
  · exact ⟨hspeed, hflags, hcfg⟩
  · exact ⟨hspeed, hflags, hcfg⟩
  · exact ⟨hspeed, hflags, and_and_of_disjoint _ (by decide)⟩
  · exact ⟨hspeed, hflags, hcfg⟩
  · exact ⟨hspeed, hflags, hcfg⟩

/-- States with the same registers have the same shape. -/
theorem SameRegisters.registersOk {s t : State} (h : SameRegisters s t) (hs : registersOk s = true) :
    Machine.registersOk t = true := by
  rw [registersOk_iff] at hs ⊢
  obtain ⟨hops, hq, hcs⟩ := hs
  rw [h.cfg, h.regs, h.drv]
  exact ⟨hops, hq, h.cs hcs⟩

/-- Every register change keeps the shape: what the host writes is cut to its width, and a speed is latched only after its
check. -/
theorem RegisterChange.registersOk {s u : State} (h : RegisterChange s u) (hs : registersOk s = true) :
    Machine.registersOk u = true := by
  rw [registersOk_iff] at hs ⊢
  obtain ⟨hops, hq, hcs⟩ := hs
  cases h with
  | none => exact ⟨hops, hq, hcs⟩
  | count n _ => exact ⟨hops, hq, hcs⟩
  | tables t _ => exact ⟨hops, hq, hcs⟩
  | write off v => exact ⟨hops.hostStore off v, hq, hcs⟩
  | code v => exact ⟨hops, hq, hcs⟩
  | latchConfig v hq' => exact ⟨hops, hq', hcs⟩
  | latchSpeed v hq' => exact ⟨hops, hq', hcs⟩

/-- Settles O52: the one register change of a step keeps the shape. -/
theorem stepKeepsRegisterShape : Obligations.StepKeepsRegisterShape := by
  intro s t hs h
  obtain ⟨u, hchange, hsame⟩ := step_registerChange h
  exact hsame.registersOk (hchange.registersOk hs)

/-! ### The table buffers (R31) -/

/-- Settles O53: a step leaves the buffers alone or writes all five, each in its length. -/
theorem stepKeepsTableLengths : Obligations.StepKeepsTableLengths := by
  intro s t hs h
  obtain ⟨u, hchange, hsame⟩ := step_registerChange h
  rw [hsame.tabs]
  cases hchange with
  | tables tabs ht => exact ht
  | none => exact hs
  | count n _ => exact hs
  | write off v => exact hs
  | code v => exact hs
  | latchConfig v _ => exact hs
  | latchSpeed v _ => exact hs

/-! ### The counter (R23) -/

/-- Settles O54: the latches of INIT and SET_SPEED leave the counter; only its two actions write it. -/
theorem counterOnlyClearsOrCounts : Obligations.CounterOnlyClearsOrCounts := by
  intro s t h
  obtain ⟨u, hchange, hsame⟩ := step_registerChange h
  rw [hsame.drv]
  cases hchange with
  | count n hn => exact .inr hn
  | none => exact .inl rfl
  | tables tabs _ => exact .inl rfl
  | write off v => exact .inl rfl
  | code v => exact .inl rfl
  | latchConfig v _ => exact .inl rfl
  | latchSpeed v _ => exact .inl rfl

end Sys2Proof.Machine
end

section
/-!
PROOFS. What the bus commands leave in a chip that is ready (spec/10_state.md R40 to R44, spec/30_encoding.md R109, R112).
-/
namespace Sys2Proof.Machine

/-! ### Commands that write one register of the chip -/

/-- An instruction that is a `send` to a chip that is ready goes out and leaves the chip as its effect says. -/
theorem exec_transacted {i : Instr} {c : Cmd} {data : List Byte} {eff : ChipEffect} {s : State} {chip : Chip}
    (hready : busyLevel s = false) (hexec : exec i s = .next (busSend c data eff s))
    (heff : eff.ready s.chip = chip) : ∃ t, exec i s = .next t ∧ Transacted s t c data ∧ t.chip = chip :=
  ⟨_, hexec, heff ▸ busSend_transacted hready⟩

/-- Settles O11: each of the four is a `send` with its effect. -/
theorem powerAndModeCommandsComplete : Obligations.PowerAndModeCommandsComplete := fun _ hready =>
  ⟨exec_transacted hready rfl rfl, exec_transacted hready rfl rfl, exec_transacted hready rfl rfl,
    exec_transacted hready rfl rfl⟩

/-- Settles O12: the effect of an image command is its slot written. -/
theorem imageCommandsComplete : Obligations.ImageCommandsComplete := fun _ _ hready =>
  ⟨exec_transacted hready rfl rfl, exec_transacted hready rfl rfl⟩

/-- Settles O13: the effect of a table load is its register written. -/
theorem tableCommandsComplete : Obligations.TableCommandsComplete := fun _ _ hready =>
  ⟨exec_transacted hready rfl rfl, exec_transacted hready rfl rfl, exec_transacted hready rfl rfl,
    exec_transacted hready rfl rfl, exec_transacted hready rfl rfl⟩

/-! ### The refresh command (R44, R70, R76) -/

/-- In a refresh the block's samples say busy (R44). -/
theorem busyLevel_of_active {s : State} (h : s.chip.engine.active = true) : busyLevel s = true := by
  simp [busyLevel, h]

/-- In a refresh the host's polls say busy (R44). -/
theorem pollLevel_of_active {s : State} (h : s.chip.engine.active = true) : pollLevel s = true := by
  simp [pollLevel, h]

/-- An engine that has just started has driven no line. -/
theorem Engine.start_waves (n : Nat) (c : Chip) (l : Lane) : (Engine.start n c).waves.get l = [] := by
  cases l <;> rfl

/-- Settles O14: the effect of the refresh command is an engine started on what the chip holds, and a running engine
asserts busy. -/
theorem refreshCommandStartsRefresh : Obligations.RefreshCommandStartsRefresh := by
  intro s hready
  obtain ⟨t, hexec, htx, hchip⟩ := exec_transacted (i := .cmdRefresh) hready rfl rfl
  have hengine : t.chip.engine = Engine.start (s.env.free + 1) s.chip := by rw [hchip]; rfl
  have hactive : t.chip.engine.active = true := by rw [hengine]; rfl
  refine ⟨t, hexec, htx, ?_, hactive, busyLevel_of_active hactive, pollLevel_of_active hactive, ?_⟩
  · rw [hchip]
    rfl
  · rw [hengine]
    exact ⟨rfl, rfl, rfl, rfl, rfl, rfl, rfl, Engine.start_waves _ _⟩

/-! ### The panel configuration byte (R41, R112) -/

/-- The bits of a supported resolution are in the union of the bits of all of them. -/
theorem resolution_bits_or {l : List Resolution} {r : Resolution} (hr : r ∈ l) (b : Byte) :
    l.foldl (fun b r => b ||| r.bits) b ||| r.bits = l.foldl (fun b r => b ||| r.bits) b := by
  have keeps : ∀ (l : List Resolution) (b x : Byte), b ||| x = b →
      l.foldl (fun b r => b ||| r.bits) b ||| x = l.foldl (fun b r => b ||| r.bits) b := by
    intro l
    induction l with
    | nil => exact fun _ _ h => h
    | cons a l ih => exact fun b x h => ih _ _ (by
      show b ||| a.bits ||| x = b ||| a.bits
      rw [BitVec.or_assoc, BitVec.or_comm a.bits x, ← BitVec.or_assoc, h])
  induction l generalizing b with
  | nil => cases hr
  | cons a l ih =>
    rcases List.mem_cons.mp hr with rfl | hr
    · exact keeps l _ _ (by rw [BitVec.or_assoc, BitVec.or_self])
    · exact ih hr _

/-- The `PSR_SRC` constant of a source (R112). -/
def psrSrcByte (c : Config) : LutSrc → Byte
  | .internal => c.psr.srcInternal
  | .programmed => c.psr.srcProg

/-- BUILD_PSR answers the constants of a supported resolution, of the source and of the two mirrors together (R112). -/
theorem buildPsr_eq_ok {c : Config} {w h : Nat} {src : LutSrc} {mx my : Bool} {b : Byte}
    (hb : buildPsr c w h src mx my = .ok b) :
    ∃ r ∈ c.supported, b = c.psr.base ||| r.bits ||| psrSrcByte c src ||| (if mx then c.psr.mx1 else c.psr.mx0) |||
      (if my then c.psr.my1 else c.psr.my0) := by
  unfold buildPsr at hb
  split at hb
  · cases hb
  · next r hr =>
    cases hb
    exact ⟨r, List.mem_of_find?_eq_some hr, by cases src <;> rfl⟩

/-- A constant whose bits are among the other bits of the panel byte has none of the source bits (R112). -/
theorem and_psrSrcBits_of_other {c : Config} {x : Byte} (h : c.psrOtherBits ||| x = c.psrOtherBits) :
    x &&& c.psrSrcBits = 0 := by
  unfold Config.psrSrcBits
  rw [← h]
  ext i hi
  grind

/-- The constants of a resolution, of the mirrors and the fixed bits have none of the source bits (R112). -/
theorem psrOther_and_psrSrcBits (c : Config) :
    c.psr.base &&& c.psrSrcBits = 0 ∧ (∀ r ∈ c.supported, r.bits &&& c.psrSrcBits = 0) ∧
      (∀ mx : Bool, (if mx then c.psr.mx1 else c.psr.mx0) &&& c.psrSrcBits = 0) ∧
      ∀ my : Bool, (if my then c.psr.my1 else c.psr.my0) &&& c.psrSrcBits = 0 := by
  refine ⟨and_psrSrcBits_of_other ?_, fun r hr => and_psrSrcBits_of_other ?_,
    fun mx => and_psrSrcBits_of_other ?_, fun my => and_psrSrcBits_of_other ?_⟩ <;> unfold Config.psrOtherBits
  · ext i hi
    grind
  · rw [BitVec.or_assoc, resolution_bits_or hr]
  · cases mx <;> ext i hi <;> grind
  · cases my <;> ext i hi <;> grind

/-- The source bits of a panel byte are those of its `PSR_SRC` constant (R112). -/
theorem buildPsr_and_psrSrcBits {c : Config} {w h : Nat} {src : LutSrc} {mx my : Bool} {b : Byte}
    (hb : buildPsr c w h src mx my = .ok b) : b &&& c.psrSrcBits = psrSrcByte c src &&& c.psrSrcBits := by
  obtain ⟨r, hr, rfl⟩ := buildPsr_eq_ok hb
  obtain ⟨hbase, hres, hmx, hmy⟩ := psrOther_and_psrSrcBits c
  simp only [BitVec.and_or_distrib_right, hbase, hres r hr, hmx, hmy]
  simp

/-- The two sources differ in the source bits, when there are any (R112). -/
theorem srcInternal_ne_srcProg {c : Config} (h : c.psrSrcBits ≠ 0) :
    c.psr.srcInternal &&& c.psrSrcBits ≠ c.psr.srcProg &&& c.psrSrcBits := by
  intro heq
  refine h ?_
  calc c.psrSrcBits = (c.psr.srcInternal &&& c.psrSrcBits) ^^^ (c.psr.srcProg &&& c.psrSrcBits) := by
        unfold Config.psrSrcBits; ext i hi; grind
    _ = 0 := by rw [heq]; exact BitVec.xor_self

/-- The byte BUILD_PSR gives for a source selects that source (R112; log 17). -/
theorem sourceOfPsr_buildPsr {c : Config} (hc : c.psrSrcBits ≠ 0) {w h : Nat} {src : LutSrc} {mx my : Bool} {b : Byte}
    (hb : buildPsr c w h src mx my = .ok b) : sourceOfPsr c b = some src := by
  have hbits := buildPsr_and_psrSrcBits hb
  cases src with
  | programmed => simp [sourceOfPsr, hbits, psrSrcByte]
  | internal => simp [sourceOfPsr, hbits, psrSrcByte, srcInternal_ne_srcProg hc]

/-- Well-formed parameters have bits by which the panel byte gives the LUT source (R112). -/
theorem psrSrcBits_ne_zero {c : Config} (h : c.wf = true) : c.psrSrcBits ≠ 0 := by
  simp only [Config.wf, Bool.and_eq_true, bne_iff_ne] at h
  obtain ⟨⟨⟨⟨⟨-, hbits⟩, -⟩, -⟩, -⟩, -⟩ := h
  exact hbits

/-- A panel byte that selects a source writes the selector of a ready chip, and any other leaves it free (R41). -/
theorem writePsr_ready (c : Config) (b : Byte) (n : Nat) (chip : Chip) :
    (writePsr c b n).ready chip =
      { chip with lutSrc := ((sourceOfPsr c b).map Shadow.known).getD (chip.lutSrc.loosen n) } := by
  cases h : sourceOfPsr c b <;> simp [writePsr, h]

/-- Settles O15: the effect of the command is on the selector alone, and the source bits tell the two sources apart. -/
theorem panelCommandSelectsSource : Obligations.PanelCommandSelectsSource := by
  intro s b hready
  obtain ⟨t, hexec, htx, hchip⟩ := exec_transacted (i := .cmdPanelConfig b) hready rfl rfl
  rw [writePsr_ready] at hchip
  refine ⟨t, hexec, htx, by rw [hchip], fun hwf w h src mx my hb => ?_⟩
  rw [hchip, sourceOfPsr_buildPsr (psrSrcBits_ne_zero hwf) hb]
  rfl

end Sys2Proof.Machine
end

section
/-!
PROOFS. The host interface: what the host reads of the state (spec/10_state.md R33, R34), and what its writes and fills
leave (R33, R35, spec/20_memory.md R60).
-/
namespace Sys2Proof.Machine

/-! ### The fields of STATUS and ST_FLAGS (R33, R34) -/

theorem statusWord_bits (s : State) :
    (statusWord s).getLsbD 0 = s.ctl.running ∧ (statusWord s).getLsbD 1 = s.ctl.result ∧
      (statusWord s).getLsbD 7 = (s.drv.hasBusy && pollLevel s) ∧ (statusWord s).getLsbD 11 = s.ctl.inited := by
  unfold statusWord
  refine ⟨?_, ?_, ?_, ?_⟩
  all_goals
    repeat rw [BitVec.getLsbD_append]
    simp

theorem statusWord_fields (s : State) :
    (statusWord s).extractLsb' 2 2 = 0 ∧ (statusWord s).extractLsb' 4 3 = s.ctl.err.code ∧
      (statusWord s).extractLsb' 8 3 = s.ctl.seq.code ∧ (statusWord s).extractLsb' 12 4 = s.ctl.cause.code := by
  unfold statusWord
  refine ⟨?_, ?_, ?_, ?_⟩
  all_goals
    repeat rw [BitVec.extractLsb'_append_eq_ite]
    simp

theorem stFlags_bits (s : State) :
    (stFlags s).getLsbD 0 = s.drv.fr ∧ (stFlags s).getLsbD 1 = s.ctl.inited ∧ (stFlags s).getLsbD 2 = s.drv.hasBusy ∧
      (stFlags s).getLsbD 3 = s.drv.mirrorX ∧ (stFlags s).getLsbD 4 = s.drv.mirrorY := by
  unfold stFlags
  refine ⟨?_, ?_, ?_, ?_, ?_⟩
  all_goals
    repeat rw [BitVec.getLsbD_append]
    simp

theorem stFlags_reserved (s : State) : (stFlags s).extractLsb' 5 3 = 0 := by
  unfold stFlags
  repeat rw [BitVec.extractLsb'_append_eq_ite]
  simp

/-! ### The windows on the table buffers (R33) -/

/-- A window shows the byte of its buffer. -/
theorem window_add {t : List Byte} {k : Nat} {b : Byte} (base : Nat) (h : t[k]? = some b) :
    window t base (base + k) = b.toNat := by
  simp [window, h]

/-- The first offset of the window on a table buffer. -/
def windowBase : Lane → Nat
  | .vcom => 0x100
  | .ww => 0x140
  | .wb => 0x180
  | .bb => 0x1C0
  | .bw => 0x200

/-- How many bytes the window on a table buffer shows. -/
def windowLength : Lane → Nat
  | .vcom => 44
  | _ => 42

/-- The windows lie apart from the registers and from each other. -/
theorem hostRead_window (s : State) (l : Lane) {k : Nat} (hk : k < windowLength l) :
    hostRead s (windowBase l + k) = some (window (s.tabs.get l) (windowBase l) (windowBase l + k)) := by
  cases l
  all_goals
    simp only [windowLength] at hk
    simp only [windowBase, Tables.get]
    unfold hostRead
    repeat rw [if_neg (by omega)]
    rw [if_pos (by omega)]

/-- A read in a window gives the byte of the buffer. -/
theorem hostRead_table (s : State) (l : Lane) {k : Nat} {b : Byte} (hk : k < windowLength l)
    (hb : (s.tabs.get l)[k]? = some b) : hostRead s (windowBase l + k) = some b.toNat := by
  rw [hostRead_window s l hk, window_add _ hb]

/-- An offset outside the registers and the windows reads 0. -/
theorem hostRead_unlisted (s : State) {off : Nat}
    (h : (0x0C < off ∧ off < 0x100) ∨ (0x12B < off ∧ off < 0x140) ∨ (0x169 < off ∧ off < 0x180) ∨
      (0x1A9 < off ∧ off < 0x1C0) ∨ (0x1E9 < off ∧ off < 0x200) ∨ 0x229 < off) : hostRead s off = some 0 := by
  unfold hostRead
  repeat rw [if_neg (by omega)]

/-- Settles O59: the fields of the two words one by one, the numbers of the codes, the windows, and the gaps between
them. -/
theorem statusFieldPositions : Obligations.StatusFieldPositions := by
  intro s
  obtain ⟨hrunning, hresult, hbusy, hinited⟩ := statusWord_bits s
  obtain ⟨hreserved, herr, hseq, hcause⟩ := statusWord_fields s
  obtain ⟨hfr, hinited', hwire, hmx, hmy⟩ := stFlags_bits s
  refine ⟨⟨hrunning, hresult, hreserved, herr, hbusy, pollLevel_of_active, hseq, hinited, hcause, rfl⟩,
    ⟨rfl, rfl, rfl, rfl⟩, ⟨rfl, rfl, hfr, hinited', hwire, hmx, hmy, stFlags_reserved s, rfl, rfl⟩, fun k b => ?_,
    fun off => hostRead_unlisted s⟩
  exact ⟨hostRead_table s .vcom, hostRead_table s .ww, hostRead_table s .wb, hostRead_table s .bb,
    hostRead_table s .bw⟩

/-! ### Writes of the operand registers (R33, R35) -/

/-- A byte of which the low n bits are kept is the value cut to n bits. -/
theorem ofNat_and_mask_toNat {mask : Byte} (v : Nat) {n : Nat} (hn : n ≤ 8) (hmask : mask.toNat = 2 ^ n - 1) :
    (BitVec.ofNat 8 v &&& mask).toNat = v % 2 ^ n := by
  rw [BitVec.toNat_and, hmask, Nat.and_two_pow_sub_one_eq_mod, BitVec.toNat_ofNat,
    Nat.mod_mod_of_dvd _ (Nat.pow_dvd_pow 2 hn)]

/-- An operand register written is read back up to its width and its reserved bits (R33, R35). -/
theorem hostRead_hostWrite (s : State) (v : Nat) :
    hostRead (hostWrite 0x02 v s) 0x02 = some (v % 2 ^ (3 + s.cfg.fracBits)) ∧
    hostRead (hostWrite 0x03 v s) 0x03 = some (v % 16) ∧ hostRead (hostWrite 0x04 v s) 0x04 = some (v % 256) ∧
    hostRead (hostWrite 0x05 v s) 0x05 = some (v % 65536) ∧ hostRead (hostWrite 0x06 v s) 0x06 = some (v % 65536) ∧
    hostRead (hostWrite 0x07 v s) 0x07 = some (v % 8) ∧
    hostRead (hostWrite 0x08 v s) 0x08 = some (v % 4294967296) :=
  ⟨rfl, congrArg some (ofNat_and_mask_toNat v (n := 4) (by decide) rfl), rfl, rfl, rfl,
    congrArg some (ofNat_and_mask_toNat v (n := 3) (by decide) rfl), rfl⟩

/-- A write at a read-only or unlisted offset changes no register (R33). -/
theorem hostWrite_ignored (v : Nat) (s : State) {off : Nat} (h : off = 1 ∨ 9 ≤ off) : hostWrite off v s = s := by
  rcases h with rfl | h
  · rfl
  · obtain ⟨k, rfl⟩ := Nat.exists_eq_add_of_le' h
    rfl

/-! ### Bytes of the spaces (spec/20_memory.md R60) -/

/-- The byte written is read back: where a byte 0 takes the place of an entry, a canonical memory lists no other. -/
theorem Memory.read_write_self {lo a : Nat} {b : Byte} {m : Memory} (hm : Memory.wfFrom lo m = true) :
    (m.write a b).read a = b := by
  induction m generalizing lo with
  | nil => by_cases hb : b = Memory.unwritten <;> simp [Memory.write, Memory.read, hb]
  | cons e m ih =>
    obtain ⟨k, c⟩ := e
    simp only [Memory.wfFrom, Bool.and_eq_true, decide_eq_true_eq] at hm
    obtain ⟨-, hm⟩ := hm
    unfold Memory.write
    split
    · next hlt =>
      split
      · next hb =>
        have hne : k ≠ a := by omega
        rw [hb, Memory.read, if_neg hne, Memory.read_below hm (by omega)]
      · rw [Memory.read, if_pos rfl]
    · split
      · next heq =>
        subst heq
        split
        · next hb => rw [hb, Memory.read_below hm (Nat.lt_succ_self a)]
        · rw [Memory.read, if_pos rfl]
      · next hne => rw [Memory.read, if_neg (Ne.symm hne), ih hm]

/-- A byte write leaves every other byte as it was. -/
theorem Memory.read_write_of_ne {a x : Nat} {b : Byte} (m : Memory) (hx : x ≠ a) : (m.write a b).read x = m.read x := by
  induction m with
  | nil => by_cases hb : b = Memory.unwritten <;> simp [Memory.write, Memory.read, hb, hx.symm]
  | cons e m ih =>
    obtain ⟨k, c⟩ := e
    unfold Memory.write
    split
    · split <;> simp [Memory.read, hx.symm]
    · split
      · next h =>
        subst h
        split <;> simp [Memory.read, hx.symm]
      · simp [Memory.read, ih]

/-- A fill by the host writes its space. -/
theorem Spaces.get_putHost_self (m : Spaces) (sp : HostSpace) (a : Nat) (b : Byte) :
    (m.putHost sp a b).get sp.space = (m.get sp.space).write a b := by
  cases sp <;> rfl

/-- A fill by the host leaves the other spaces as they were. -/
theorem Spaces.get_putHost_of_ne (m : Spaces) (sp : HostSpace) (a : Nat) (b : Byte) {sp' : Space} (h : sp' ≠ sp.space) :
    (m.putHost sp a b).get sp' = m.get sp' := by
  cases sp with
  | fb0 => cases sp' with
    | fb0 => exact absurd rfl h
    | _ => rfl
  | fb1 => cases sp' with
    | fb1 => exact absurd rfl h
    | _ => rfl
  | lum => cases sp' with
    | lum => exact absurd rfl h
    | _ => rfl

/-- With nothing running a step takes the host's next access. -/
theorem step_host {s : State} {h : HostAct} {rest : List HostAct} (hturn : engineTurn s = false)
    (htodo : s.ctl.todo = []) (hrun : s.ctl.running = false) (hin : s.env.hostIn = h :: rest) :
    step s = hostStep h (hostTaken (turned s)) := by
  simp [step, hturn, htodo, hrun, hin]

/-- A write at an offset other than CMD is storage. -/
theorem hostStep_write {off : Nat} (v : Nat) (s : State) (h : off ≠ 0) :
    hostStep (.write off v) s = .next (hostWrite off v s) := by
  cases off with
  | zero => exact absurd rfl h
  | succ off => rfl

/-- A fill inside the space writes the byte (R60). -/
theorem hostFill_inside {s : State} {sp : HostSpace} {a : Nat} (b : Byte) (h : a < hostSpaceSize s sp) :
    hostFill s sp a b = .next { s with mem := s.mem.putHost sp a b } := if_pos h

/-- After a fill the byte is read back, and every other byte of every space as before (R60). -/
theorem read_putHost {m : Spaces} (hm : m.wf = true) (sp : HostSpace) (a : Nat) (b : Byte) :
    ((m.putHost sp a b).get sp.space).read a = b ∧
    ∀ (sp' : Space) (x : Nat), sp' ≠ sp.space ∨ x ≠ a → ((m.putHost sp a b).get sp').read x = (m.get sp').read x := by
  refine ⟨?_, fun sp' x hne => ?_⟩
  · rw [Spaces.get_putHost_self]
    exact Memory.read_write_self ((Spaces.wf_iff m).mp hm sp.space)
  · by_cases hsp : sp' = sp.space
    · subst hsp
      rw [Spaces.get_putHost_self, Memory.read_write_of_ne _ (hne.resolve_left (· rfl))]
    · rw [Spaces.get_putHost_of_ne m sp a b hsp]

/-- Settles O60: a write by what it stores at each offset, a fill by what a byte write leaves, each through the step that
takes it. -/
theorem operandRegistersReadBack : Obligations.OperandRegistersReadBack := by
  refine ⟨fun s v => ?_, fun s rest hturn htodo hrun => ⟨fun off v hoff hin => ?_, fun sp a b hm ha hin => ?_⟩⟩
  · obtain ⟨hspeed, hflags, hg, hwidth, hheight, hcfg, hperiod⟩ := hostRead_hostWrite s v
    exact ⟨hspeed, hflags, hg, hwidth, hheight, hcfg, hperiod, rfl, rfl, rfl, rfl, rfl, rfl, rfl,
      fun off => hostWrite_ignored v s⟩
  · rw [step_host hturn htodo hrun hin, hostStep_write v _ hoff]
  · obtain ⟨hself, hother⟩ := read_putHost hm sp a b
    exact ⟨_, (step_host hturn htodo hrun hin).trans (hostFill_inside b ha), hself, hother, rfl⟩

end Sys2Proof.Machine
end

section
/-!
PROOFS. What one step can do to the memory spaces and to the trace: every part of it keeps a canonical memory canonical
(spec/20_memory.md R60, R69), and what it appends to the trace is gated by itself (R73, R193).
-/
namespace Sys2Proof.Machine

/-! ### Gated pieces of a trace (R73) -/

/-- A sample that said not busy before the piece takes nothing away. -/
theorem gatedFrom_of_gated {l : List Event} (ok : Bool) (h : gated l = true) : gatedFrom ok l = true := by
  cases l with
  | nil => rfl
  | cons e l =>
    cases e with
    | sample b => exact h
    | resetEdge high ms => exact h
    | tx g c d =>
      simp only [gated, gatedFrom, Bool.or_false, Bool.and_eq_true] at h ⊢
      exact ⟨by simp [h.1], h.2⟩

/-- A piece that is gated by itself may follow any gated trace. -/
theorem gatedFrom_append {ok : Bool} {l m : List Event} (hl : gatedFrom ok l = true) (hm : gated m = true) :
    gatedFrom ok (l ++ m) = true := by
  induction l generalizing ok with
  | nil => exact gatedFrom_of_gated ok hm
  | cons e l ih =>
    cases e with
    | sample b => exact ih hl
    | resetEdge high ms => exact ih hl
    | tx g c d =>
      simp only [List.cons_append, gatedFrom, Bool.and_eq_true] at hl ⊢
      exact ⟨hl.1, ih hl.2⟩

theorem gated_append {l m : List Event} (hl : gated l = true) (hm : gated m = true) : gated (l ++ m) = true :=
  gatedFrom_append hl hm

/-! ### Sound changes -/

/-- A canonical memory is still canonical, and the trace has gained a piece that is gated by itself. -/
structure SoundChange (s t : State) : Prop where
  mem   : s.mem.wf = true → t.mem.wf = true
  trace : ∃ l, gated l = true ∧ t.log.trace = s.log.trace ++ l

theorem SoundChange.of_eq {s t : State} (hmem : t.mem = s.mem := by simp)
    (htrace : t.log.trace = s.log.trace := by simp) : SoundChange s t :=
  ⟨fun h => hmem ▸ h, [], rfl, by simp [htrace]⟩

theorem SoundChange.refl (s : State) : SoundChange s s := .of_eq

theorem SoundChange.trans {s t u : State} (h : SoundChange s t) (k : SoundChange t u) : SoundChange s u := by
  obtain ⟨l, hl, ht⟩ := h.trace
  obtain ⟨m, hm, hu⟩ := k.trace
  exact ⟨k.mem ∘ h.mem, l ++ m, gated_append hl hm, by rw [hu, ht, List.append_assoc]⟩

/-- Only the memory has changed, from canonical to canonical. -/
theorem SoundChange.of_mem {s t : State} (hmem : s.mem.wf = true → t.mem.wf = true)
    (htrace : t.log.trace = s.log.trace := by simp) : SoundChange s t :=
  ⟨hmem, [], rfl, by simp [htrace]⟩

/-! ### The busy line and the bus -/

/-- A sample needs no gate. -/
theorem afterIsBusy_soundChange (s : State) : SoundChange s (afterIsBusy s) :=
  ⟨by simp, if s.drv.hasBusy then [.sample (busyLevel s)] else [], by split <;> rfl, afterIsBusy_trace s⟩

theorem held_soundChange (s : State) : SoundChange s (held s) := .of_eq

/-- A `send` that goes out with a busy wire has its own sample before it, and that said not busy (R73, R170). -/
theorem busSend_soundChange (c : Cmd) (data : List Byte) (eff : ChipEffect) (s : State) :
    SoundChange s (busSend c data eff s) := by
  rcases busSend_cases c data eff s with ⟨-, -, h⟩ | ⟨hready, chip, -, -, h⟩ <;> rw [h]
  · exact (afterIsBusy_soundChange s).trans (held_soundChange _)
  · refine ⟨by simp, (if s.drv.hasBusy then [.sample (busyLevel s)] else []) ++ [.tx s.drv.hasBusy c data], ?_, ?_⟩
    · cases hb : s.drv.hasBusy with
      | false => rfl
      | true =>
        rw [hready hb]
        rfl
    · simp [afterIsBusy_trace]

/-! ### The actions of a script -/

theorem doWaitReady_soundChange (s : State) : SoundChange s (doWaitReady s) := by
  rcases doWaitReady_cases s with ⟨-, h⟩ | ⟨-, h⟩ <;> rw [h]
  · exact (afterIsBusy_soundChange s).trans (held_soundChange _)
  · exact (afterIsBusy_soundChange s).trans .of_eq

/-- An edge of RESET_N is no transaction (R174). -/
theorem doResetPin_soundChange (high : Bool) (s : State) : SoundChange s (doResetPin high s) := by
  cases high <;> exact ⟨id, [.resetEdge _ 10], rfl, rfl⟩

theorem doSynth_soundChange (q : Nat) (fr : Bool) (s : State) : SoundChange s (doSynth q fr s) := by
  rcases doSynth_cases q fr s with ⟨t, -, h⟩ | ⟨-, h⟩ | ⟨c, -, h⟩ <;> rw [h] <;> exact .of_eq

theorem doGreyTables_soundChange (s : State) : SoundChange s (doGreyTables s) := by
  rcases doGreyTables_cases s with ⟨t, -, h⟩ | ⟨c, -, h⟩ <;> rw [h] <;> exact .of_eq

/-- The pass loop rewrites the masks or nothing (R223, R231). -/
theorem doGreyLoop_soundChange (g : Nat) (s : State) : SoundChange s (doGreyLoop g s) := by
  unfold doGreyLoop
  split
  · have hmasks : SoundChange s (buildMasks g { s with grey := { s.grey with gbase := g } }) :=
      .of_mem fun h => buildMasks_mem_wf h
    refine hmasks.trans ?_
    dsimp only
    split <;> exact .of_eq
  · exact .of_eq

/-- Every action of a script is a sound change. -/
theorem perform_soundChange (a : Action) (s : State) : SoundChange s (perform a s) := by
  cases a with
  | setSeq q => exact .of_eq rfl rfl
  | send c d => exact .refl s
  | waitReady => exact doWaitReady_soundChange s
  | resetPin high => exact doResetPin_soundChange high s
  | synth => exact doSynth_soundChange _ _ s
  | synthFull => exact doSynth_soundChange _ _ s
  | normalise => exact .of_mem doNormalise_mem_wf rfl
  | greyLoop g => exact doGreyLoop_soundChange g s
  | greyTables => exact doGreyTables_soundChange s
  | clearCount => exact .of_eq rfl rfl
  | bumpCount => exact .of_eq rfl rfl
  | setInited => exact .of_eq rfl rfl
  | ret v => exact .of_eq rfl rfl

/-! ### The host's accesses -/

/-- A fill writes one byte of a space (R60). -/
theorem hostFill_soundChange {s t : State} {sp : HostSpace} {a : Nat} {b : Byte} (h : hostFill s sp a b = .next t) :
    SoundChange s t := by
  rcases hostFill_cases s sp a b with ⟨-, hf⟩ | ⟨-, hf⟩ <;> rw [hf] at h <;> cases h
  exact .of_mem (Spaces.wf_putHost sp a b)

/-- An operation is a sound change when what it does once accepted is. -/
theorem hostOp_soundChange {op : HostOp} {body : State → State} (hbody : ∀ s, SoundChange s (body s)) (s : State) :
    SoundChange s (hostOp op body s) := by
  rcases hostOp_cases op body s with ⟨-, h⟩ | ⟨-, -, -, h⟩ | ⟨-, -, h⟩ <;> rw [h]
  · exact .refl s
  · exact .of_eq
  · exact SoundChange.trans .of_eq (hbody _)

theorem beginUpdate_soundChange (s : State) : SoundChange s (beginUpdate s) := .of_eq rfl rfl

/-- What a host code runs at once writes no memory and sends nothing; it takes at most a sample (R178, R189). -/
theorem exec_hostOfCode_soundChange {b : Byte} {s t : State} (h : exec (hostOfCode b) s = .next t) :
    SoundChange s t := by
  rcases hostOfCode_cases b with hb | hb | hb | hb | hb | hb | hb | hb <;> rw [hb] at h <;> cases h
  · -- INIT: a check fails, or the configuration is latched
    refine hostOp_soundChange (fun s => ?_) s
    split
    · exact .of_eq
    · split <;> exact .of_eq
  · -- SET_SPEED: the check fails, or the speed is latched
    refine hostOp_soundChange (fun s => ?_) s
    split <;> exact .of_eq
  · -- UPDATE: a blocking one begins; a non-blocking one samples first
    refine hostOp_soundChange (fun s => ?_) s
    split
    · exact beginUpdate_soundChange s
    · split
      · exact (afterIsBusy_soundChange s).trans .of_eq
      · exact (afterIsBusy_soundChange s).trans (beginUpdate_soundChange _)
  · -- GREY_RENDER: one of its checks fails, or it begins
    refine hostOp_soundChange (fun s => ?_) s
    dsimp only
    repeat' split
    all_goals exact .of_eq
  · -- FADE_OUT
    exact hostOp_soundChange (fun s => .of_eq) s
  · -- WAIT_OFF
    exact hostOp_soundChange (fun s => .of_eq) s
  · -- IS_BUSY: one sample
    exact hostOp_soundChange (fun s => (afterIsBusy_soundChange s).trans .of_eq) s
  · -- a reserved code
    split
    · exact .refl s
    · exact .of_eq

/-! ### Steps -/

/-- Every step is a sound change. -/
theorem step_soundChange {s t : State} (h : step s = .next t) : SoundChange s t :=
  step_keeps (P := SoundChange s)
    (hturn := fun _ hu => hu.trans .of_eq)
    (htaken := fun _ hu => hu.trans .of_eq)
    (hcmd := fun _ _ hu => hu.trans .of_eq)
    (hrow := fun _ _ hu => hu.trans .of_eq)
    (hsend := fun _ _ _ c data eff u _ hu => hu.trans (busSend_soundChange c data eff u))
    (hraise := fun _ _ _ _ _ _ hu => hu.trans .of_eq)
    (hperform := fun a _ u _ hu => hu.trans (perform_soundChange a u))
    (hfill := fun _ _ _ _ _ hu hf => hu.trans (hostFill_soundChange hf))
    (hwrite := fun _ _ _ hu => hu.trans .of_eq)
    (hhost := fun _ _ _ _ hu he => hu.trans (exec_hostOfCode_soundChange he))
    (.refl s) h

/-- Settles O49: a step is a sound change, and that keeps a canonical memory canonical. -/
theorem stepKeepsMemoryCanonical : Obligations.StepKeepsMemoryCanonical :=
  fun _ _ hs h => (step_soundChange h).mem hs

/-- Settles O50: a step is a sound change, and what that appends to the trace is gated by itself. -/
theorem stepKeepsBusyGate : Obligations.StepKeepsBusyGate := by
  intro s t hs h
  obtain ⟨l, hl, ht⟩ := (step_soundChange h).trace
  rw [ht]
  exact gated_append hs hl

end Sys2Proof.Machine
end

section
/-!
PROOFS. Range reads of a memory space, and a space rewritten in full (spec/00_scope.md R9, spec/20_memory.md R69).
-/
namespace Sys2Proof.Machine

/-! ### Byte writes -/

/-- Settles O55: the two cases of a read after a write. -/
theorem memoryWriteReadsBack : Obligations.MemoryWriteReadsBack :=
  fun m _ _ hm => ⟨Memory.read_write_self hm, fun _ hx => Memory.read_write_of_ne m hx⟩

/-! ### Range reads -/

theorem Memory.wfFrom_cons {lo k : Nat} {b : Byte} {m : Memory} :
    Memory.wfFrom lo ((k, b) :: m) = true ↔ lo ≤ k ∧ b ≠ Memory.unwritten ∧ Memory.wfFrom (k + 1) m = true := by
  simp [Memory.wfFrom, and_assoc]

/-- A list of reads from an address up is the read there, then the reads from the next address up. -/
theorem map_read_succ (m : Memory) (a n : Nat) :
    ((List.range (n + 1)).map fun k => m.read (a + k)) =
      m.read a :: (List.range n).map fun k => m.read (a + 1 + k) := by
  simp [List.range_succ_eq_map, Nat.add_assoc, Nat.add_comm 1, Function.comp_def]

/-- An entry below the addresses read makes no difference. -/
theorem map_read_cons {k a : Nat} (b : Byte) (m : Memory) (n : Nat) (hk : k < a) :
    ((List.range n).map fun i => Memory.read ((k, b) :: m) (a + i)) = (List.range n).map fun i => m.read (a + i) := by
  refine List.map_congr_left fun i _ => ?_
  rw [Memory.read, if_neg (by omega)]

/-- A walk along a list canonical from its start gives the bytes in ascending order. -/
theorem Memory.walk_eq {m : Memory} {a : Nat} (n : Nat) (hm : Memory.wfFrom a m = true) :
    m.walk a n = (List.range n).map fun k => m.read (a + k) := by
  induction n generalizing a m with
  | zero => cases m <;> rfl
  | succ n ih =>
    rw [map_read_succ]
    cases m with
    | nil => exact congrArg (_ :: ·) (ih rfl)
    | cons e m =>
      obtain ⟨k, b⟩ := e
      obtain ⟨hk, hb, htail⟩ := Memory.wfFrom_cons.mp hm
      unfold Memory.walk
      split
      · next heq =>
        subst heq
        rw [map_read_cons b m n (Nat.lt_succ_self k), ih htail, Memory.read, if_pos rfl]
      · next hne =>
        have hrest : Memory.wfFrom (a + 1) ((k, b) :: m) = true :=
          Memory.wfFrom_cons.mpr ⟨by omega, hb, htail⟩
        rw [ih hrest, Memory.read_below hrest (Nat.lt_succ_self a)]

/-- Without the entries below an address a canonical list is canonical from that address, and reads as before there and
above. -/
theorem Memory.dropWhile_lt {lo : Nat} {m : Memory} (a : Nat) (hm : Memory.wfFrom lo m = true) :
    Memory.wfFrom a (m.dropWhile fun e => e.1 < a) = true ∧
      ∀ x, a ≤ x → Memory.read (m.dropWhile fun e => e.1 < a) x = m.read x := by
  induction m generalizing lo with
  | nil => exact ⟨rfl, fun _ _ => rfl⟩
  | cons e m ih =>
    obtain ⟨k, b⟩ := e
    obtain ⟨-, hb, htail⟩ := Memory.wfFrom_cons.mp hm
    by_cases hk : k < a
    · obtain ⟨hwf, hread⟩ := ih htail
      rw [List.dropWhile_cons_of_pos (by simpa using hk)]
      refine ⟨hwf, fun x hx => ?_⟩
      rw [hread x hx, Memory.read, if_neg (by omega)]
    · rw [List.dropWhile_cons_of_neg (by simpa using hk)]
      exact ⟨Memory.wfFrom_cons.mpr ⟨by omega, hb, htail⟩, fun _ _ => rfl⟩

/-- A range read of a canonical memory gives each byte, lowest address first (R9, R69). -/
theorem Memory.readRange_eq {m : Memory} (hm : m.wf = true) (a n : Nat) :
    m.readRange a n = (List.range n).map fun k => m.read (a + k) := by
  obtain ⟨hwf, hread⟩ := Memory.dropWhile_lt a hm
  refine (Memory.walk_eq n hwf).trans (List.map_congr_left fun k _ => ?_)
  exact hread (a + k) (Nat.le_add_right a k)

/-! ### A space rewritten in full -/

/-- Each byte of a rewritten space is the byte it was rewritten with. -/
theorem Memory.read_ofBytes (a : Nat) {bytes : List Byte} {k : Nat} (hk : k < bytes.length) :
    (Memory.ofBytes a bytes).read (a + k) = bytes[k] := by
  induction bytes generalizing a k with
  | nil => exact absurd hk (Nat.not_lt_zero k)
  | cons b bs ih =>
    unfold Memory.ofBytes
    cases k with
    | zero =>
      split
      · next hb => exact (Memory.read_below (Memory.wfFrom_ofBytes (a + 1) bs) (Nat.lt_succ_self a)).trans hb.symm
      · exact if_pos rfl
    | succ k =>
      have hrest := ih (a + 1) (Nat.lt_of_succ_lt_succ hk)
      rw [Nat.add_right_comm] at hrest
      split
      · exact hrest
      · rw [Memory.read, if_neg (by omega)]
        exact hrest

/-- A space rewritten in full reads back as a range (R65, R67). -/
theorem Memory.readRange_ofBytes (bytes : List Byte) : (Memory.ofBytes 0 bytes).readRange 0 bytes.length = bytes := by
  rw [Memory.readRange_eq (Memory.wf_ofBytes bytes)]
  refine List.ext_getElem (by simp) fun k _ hk => ?_
  rw [List.getElem_map, List.getElem_range, Memory.read_ofBytes 0 hk]

/-- Settles O56: a range read walks the list in order, and a rewritten space holds what it was rewritten with. -/
theorem rangeReadsEachByte : Obligations.RangeReadsEachByte :=
  ⟨fun _ a n hm => Memory.readRange_eq hm a n, Memory.readRange_ofBytes⟩

end Sys2Proof.Machine
end

section
/-!
PROOFS. A step completes, but for a fill outside its space: every fetch decodes and every instruction has a meaning
(spec/20_memory.md R60, spec/30_encoding.md R104, R108).
-/
namespace Sys2Proof.Machine

/-- Every action of a script runs to a next state. -/
theorem blockStep_next (a : Action) (s : State) : ∃ t, blockStep a s = .next t := by
  cases a with
  | send c d =>
    rcases blockStep_send_cases c d s with ⟨e, -, h⟩ | ⟨_, c', data, eff, -, -, h⟩ <;> exact ⟨_, h⟩
  | _ => exact ⟨_, rfl⟩

/-- Every access of the host runs to a next state, but for a fill outside its space. -/
theorem hostStep_cases (h : HostAct) (s : State) :
    (∃ t, hostStep h s = .next t) ∨
    (hostStep h s = .fault .outsideSpace ∧ ∃ sp a b, h = .fill sp a b ∧ hostSpaceSize s sp ≤ a) := by
  cases h with
  | write off v =>
    cases off with
    | zero => exact .inl (exec_hostOfCode (BitVec.ofNat 8 v) (writeCmd v s))
    | succ off => exact .inl ⟨_, rfl⟩
  | fill sp a b =>
    rcases hostFill_cases s sp a b with ⟨-, hf⟩ | ⟨ha, hf⟩
    · exact .inl ⟨_, hf⟩
    · exact .inr ⟨hf, sp, a, b, rfl, ha⟩

/-- A space has the same size when the host's next access is taken. -/
theorem hostSpaceSize_hostTaken_turned (s : State) (sp : HostSpace) :
    hostSpaceSize (hostTaken (turned s)) sp = hostSpaceSize s sp := by
  cases sp <;> rfl

/-- Settles O47: the engine's row, the action and the host's access each run to a next state, the fill alone can fault. -/
theorem stepStopsOnlyOutsideSpaces : Obligations.StepStopsOnlyOutsideSpaces := by
  intro s
  cases hturn : engineTurn s with
  | true => exact .inl ⟨_, step_engine hturn⟩
  | false =>
    cases htodo : s.ctl.todo with
    | cons a rest =>
      rw [step_action hturn htodo]
      exact .inl (blockStep_next a (turned s))
    | nil =>
      cases hrun : s.ctl.running with
      | true => exact .inl ⟨turned s, by simp [step, hturn, htodo, hrun]⟩
      | false =>
        cases hin : s.env.hostIn with
        | nil => exact .inl ⟨turned s, by simp [step, hturn, htodo, hrun, hin]⟩
        | cons h rest =>
          rw [step_host hturn htodo hrun hin]
          refine (hostStep_cases h (hostTaken (turned s))).imp_right ?_
          rintro ⟨hfault, sp, a, b, rfl, ha⟩
          exact ⟨hfault, sp, a, b, rest, rfl, hostSpaceSize_hostTaken_turned s sp ▸ ha⟩

end Sys2Proof.Machine
end

section
/-!
PROOFS. The gate of the bus commands and of `wait_ready`: held while the busy line says busy, open at once without a busy
wire (spec/20_memory.md R73, spec/41_refresh_sequencer.md R170, R172, spec/70_reset_and_hazards.md R314).
-/
namespace Sys2Proof.Machine

/-! ### The bus instructions (spec/30_encoding.md R108 to R110) -/

/-- A well-formed bus instruction is that of a command with data of its length. -/
theorem eq_instr_of_wellFormed {c : Config} {nb : Nat} {i : Instr} (h : wellFormed c (.bus nb) i = true) :
    ∃ (k : Cmd) (data : List Byte), k.fits nb data = true ∧ i = k.instr data := by
  cases i with
  | cmdPanelConfig psr => exact ⟨.panelConfig, [psr], rfl, rfl⟩
  | cmdPowerOff => exact ⟨.powerOff, [], rfl, rfl⟩
  | cmdPowerOn => exact ⟨.powerOn, [], rfl, rfl⟩
  | cmdDataPrevious data => exact ⟨.dataPrevious, data, by simp_all [wellFormed, Cmd.fits, Cmd.dataLength], rfl⟩
  | cmdDataStop => exact ⟨.dataStop, [], rfl, rfl⟩
  | cmdRefresh => exact ⟨.refresh, [], rfl, rfl⟩
  | cmdDataCurrent data => exact ⟨.dataCurrent, data, by simp_all [wellFormed, Cmd.fits, Cmd.dataLength], rfl⟩
  | cmdLutVcom data => exact ⟨.lutVcom, data, h, rfl⟩
  | cmdLutWw data => exact ⟨.lutWw, data, h, rfl⟩
  | cmdLutBw data => exact ⟨.lutBw, data, h, rfl⟩
  | cmdLutWb data => exact ⟨.lutWb, data, h, rfl⟩
  | cmdLutBb data => exact ⟨.lutBb, data, h, rfl⟩
  | cmdPartialOut => exact ⟨.partialOut, [], rfl, rfl⟩
  | cmdRaw o data => exact ⟨.raw o, data, rfl, rfl⟩
  | _ => cases h

/-- The bytes of a bus instruction are its opcode and its data. -/
theorem encode_instr {nb : Nat} (c : Config) {k : Cmd} {data : List Byte} (hd : k.fits nb data = true) :
    encode c (k.instr data) = c.opc.byteOf k :: data := by
  cases k
  case panelConfig =>
    obtain ⟨b, rfl⟩ : ∃ b, data = [b] := by
      simpa [Cmd.fits, Cmd.dataLength, List.length_eq_one_iff] using hd
    rfl
  case powerOff | powerOn | dataStop | refresh | partialOut =>
    obtain rfl : data = [] := by simpa [Cmd.fits, Cmd.dataLength] using hd
    rfl
  all_goals rfl

/-! ### Held by a busy line -/

/-- With a busy wire an action that samples notes the level. -/
theorem afterIsBusy_of_wire {s : State} (h : s.drv.hasBusy = true) :
    afterIsBusy s = logEvent (.sample (busyLevel s)) s := if_pos h

/-- Without a busy wire nothing is sampled. -/
theorem afterIsBusy_of_no_wire {s : State} (h : s.drv.hasBusy = false) : afterIsBusy s = s := by
  simp [afterIsBusy, h]

/-- A busy poll within BUSY_TIMEOUT holds the block where it is (R172). -/
theorem held_afterIsBusy {s : State} (hwire : s.drv.hasBusy = true) (hbusy : busyLevel s = true)
    (hpolls : ∀ n, s.cfg.busyTimeout = some n → s.ctl.polls < n) : HeldAt s (held (afterIsBusy s)) := by
  rw [afterIsBusy_of_wire hwire, hbusy]
  rcases held_cases (logEvent (.sample true) s) with ⟨h, -⟩ | ⟨-, n, hn, hle⟩
  · rw [h]
    exact ⟨rfl, rfl, rfl, rfl, rfl, rfl, rfl, rfl, rfl, rfl, fun _ _ => rfl⟩
  · exact absurd (hpolls n hn) (Nat.not_lt.mpr hle)

/-- The gate of a `send` is a busy poll while the line says busy (R73). -/
theorem busSend_of_busy {c : Cmd} {data : List Byte} {eff : ChipEffect} {s : State} (h : isBusyNow s = true) :
    busSend c data eff s = held (afterIsBusy s) := if_pos h

/-- `wait_ready` that finds the line not busy, or no wire, is over (R172). -/
theorem perform_waitReady_of_not_busy {s : State} (h : isBusyNow s = false) : WaitedOn s (perform .waitReady s) := by
  have hdone : perform .waitReady s = advance (afterIsBusy s) := by simp [perform, doWaitReady, h]
  rw [hdone]
  cases hwire : s.drv.hasBusy with
  | false =>
    rw [afterIsBusy_of_no_wire hwire]
    exact ⟨rfl, by simp [hwire], rfl, rfl, rfl, rfl, rfl, rfl, rfl, rfl, fun _ _ => rfl⟩
  | true =>
    have hready : busyLevel s = false := by simpa [isBusyNow, hwire] using h
    rw [afterIsBusy_of_wire hwire, hready]
    exact ⟨rfl, by simp [hwire, logEvent], rfl, rfl, rfl, rfl, rfl, rfl, rfl, rfl, fun _ _ => rfl⟩

/-- Settles O17: a busy poll holds both at the gate, and without one `wait_ready` is over. -/
theorem busCommandHeldWhileBusy : Obligations.BusCommandHeldWhileBusy := by
  refine fun s hwire => ⟨fun hbusy hpolls => ?_, fun hready => perform_waitReady_of_not_busy (isBusyNow_of_ready hready)⟩
  have hnow : isBusyNow s = true := by simp [isBusyNow, hwire, hbusy]
  have hheld := held_afterIsBusy hwire hbusy hpolls
  refine ⟨fun nb i hi => ?_, ?_⟩
  · obtain ⟨k, data, hd, rfl⟩ := eq_instr_of_wellFormed hi
    exact ⟨_, exec_instr s hd, busSend_of_busy hnow ▸ hheld⟩
  · have hwait : perform .waitReady s = held (afterIsBusy s) := if_pos hnow
    exact hwait ▸ hheld

/-! ### Commands that reach a busy chip (spec/93 U7) -/

/-- The effect leaves a running refresh of a busy chip unspecified. -/
def ChipEffect.Disturbs (eff : ChipEffect) : Prop :=
  ∀ (n : Nat) (c : Chip), c.engine.active = true → ∃ k, (eff.smear n c).engine = c.engine.disturb k

/-- An effect disturbs the refresh when it disturbs a chip in which it has changed no part of the engine. -/
theorem ChipEffect.disturbs_of_smear {eff : ChipEffect} {k : Nat → Nat} {d : Nat → Chip → Chip}
    (hsmear : ∀ n c, eff.smear n c = (d n c).disturb (k n)) (hengine : ∀ n c, (d n c).engine = c.engine) :
    eff.Disturbs :=
  fun n c h => ⟨k n, by simp [hsmear, hengine, Chip.disturb, h]⟩

theorem triggerRefresh_disturbs (n : Nat) : (triggerRefresh n).Disturbs :=
  fun m _ h => ⟨m, by simp [triggerRefresh, Chip.disturb, h]⟩

/-- A raw command with a named opcode does to a busy chip what the named one does (log 15). -/
theorem rawEffect_disturbs (cfg : Config) (o : Byte) (data : List Byte) (n : Nat) :
    (rawEffect cfg o data n).Disturbs := by
  unfold rawEffect
  cases cfg.opc.find o with
  | none => exact ChipEffect.disturbs_of_smear (fun _ _ => rfl) (fun _ _ => rfl)
  | some k =>
    cases k with
    | refresh => exact triggerRefresh_disturbs n
    | _ => exact ChipEffect.disturbs_of_smear (fun _ _ => rfl) (fun _ _ => rfl)

/-- Every command leaves a running refresh of a busy chip unspecified. -/
theorem namedEffect_disturbs (cfg : Config) (k : Cmd) (data : List Byte) (n : Nat) :
    (namedEffect cfg k data n).Disturbs := by
  cases k with
  | refresh => exact triggerRefresh_disturbs n
  | raw o => exact rawEffect_disturbs cfg o data n
  | _ => exact ChipEffect.disturbs_of_smear (fun _ _ => rfl) (fun _ _ => rfl)

/-- The table register a load writes is left unspecified in a busy chip. -/
theorem loadTable_smear (l : Lane) (data : List Byte) (n : Nat) (c : Chip) :
    (((loadTable l data).smear n c).tables.get l).loose = some n := by
  cases l <;> simp [loadTable, ChipTables.get, ChipTables.modify]

/-! ### No busy wire -/

/-- Without a busy wire a `send` goes out whatever the chip is doing (R73, R314). -/
theorem busSend_of_no_wire {c : Cmd} {data : List Byte} {eff : ChipEffect} {s : State} (h : s.drv.hasBusy = false) :
    busSend c data eff s = advance (takeFree 10 { emit c data s with
      chip := if busyLevel s then eff.smear (s.env.free + 1) s.chip else eff.ready s.chip }) := by
  have hnow : isBusyNow s = false := by simp [isBusyNow, h]
  unfold busSend
  rw [afterIsBusy_of_no_wire h]
  cases busyLevel s <;> simp [hnow]

/-- What a `send` without a busy wire leaves of the block (R29, R170). -/
theorem busSend_of_no_wire_block {c : Cmd} {data : List Byte} {eff : ChipEffect} {s : State}
    (h : s.drv.hasBusy = false) :
    (busSend c data eff s).log.trace = s.log.trace ++ [.tx false c data] ∧
      (busSend c data eff s).ctl = s.ctl.next ∧ SameBlock s (busSend c data eff s) := by
  rw [busSend_of_no_wire h]
  exact ⟨by simp [h], rfl, rfl, rfl, rfl, rfl, rfl, fun _ _ => rfl⟩

/-- Without a busy wire a `send` to a busy chip takes the effect on a busy chip (log 14). -/
theorem busSend_of_no_wire_chip {c : Cmd} {data : List Byte} {eff : ChipEffect} {s : State}
    (h : s.drv.hasBusy = false) (hbusy : busyLevel s = true) :
    (busSend c data eff s).chip = eff.smear (s.env.free + 1) s.chip := by
  rw [busSend_of_no_wire h]
  simp [hbusy]

/-- The command that loads a table register (R109, R143). -/
def loadCmd : Lane → Cmd
  | .vcom => .lutVcom
  | .ww => .lutWw
  | .wb => .lutWb
  | .bb => .lutBb
  | .bw => .lutBw

/-- A table load is a `send` that writes its register. -/
theorem exec_load (l : Lane) (data : List Byte) (s : State) :
    exec ((loadCmd l).instr data) s = .next (busSend (loadCmd l) data (loadTable l data) s) := by
  cases l <;> rfl

/-- A table load that reaches a busy chip leaves its register unspecified (spec/93 U7). -/
theorem exec_load_loose {s t : State} {l : Lane} {data : List Byte} (hwire : s.drv.hasBusy = false)
    (hbusy : busyLevel s = true) (h : exec ((loadCmd l).instr data) s = .next t) :
    (t.chip.tables.get l).loose.isSome = true := by
  rw [exec_load] at h
  cases h
  rw [busSend_of_no_wire_chip hwire hbusy, loadTable_smear]
  rfl

/-- Settles O19: without a wire nothing is sampled, so nothing is held, and a busy chip takes each command's effect on a
busy chip. -/
theorem noBusyWireSendsAtOnce : Obligations.NoBusyWireSendsAtOnce := by
  refine fun s hwire => ⟨perform_waitReady_of_not_busy (by simp [isBusyNow, hwire]), fun nb i hi => ?_⟩
  obtain ⟨k, data, hd, hik⟩ := eq_instr_of_wellFormed hi
  have hexec := hik ▸ exec_instr s hd
  obtain ⟨htrace, hctl, hblock⟩ := busSend_of_no_wire_block (c := k) (data := data)
    (eff := namedEffect s.cfg k data (s.env.free + 1)) hwire
  refine ⟨_, k, data, hexec, htrace, (hik ▸ encode_instr s.cfg hd).symm, hctl, hblock,
    fun hbusy => ⟨fun hactive => ?_, ?_⟩⟩
  · rw [busSend_of_no_wire_chip hwire hbusy]
    obtain ⟨n, hn⟩ := namedEffect_disturbs s.cfg k data (s.env.free + 1) (s.env.free + 1) s.chip hactive
    rw [hn]
    exact ⟨rfl, rfl, rfl⟩
  · have hloose (l : Lane) (d : List Byte) (hl : i = (loadCmd l).instr d) := exec_load_loose hwire hbusy (hl ▸ hexec)
    exact fun d => ⟨hloose .vcom d, hloose .ww d, hloose .wb d, hloose .bb d, hloose .bw d⟩

end Sys2Proof.Machine
end

section
/-!
PROOFS. The encoder and the decoder are inverse to each other at every port (spec/30_encoding.md R91, R104, R108 to R111).
-/
namespace Sys2Proof

/-! ### Host codes (R105, R107) -/

/-- A code outside 0x01 to 0x07 is reserved (R107). -/
theorem hostOfCode_reserved {b : Byte} (h : b.toNat = 0 ∨ 8 ≤ b.toNat) : hostOfCode b = .hostReserved b := by
  unfold hostOfCode
  repeat rw [if_neg (by rintro rfl; simp at h)]

/-- A host instruction's code decodes to it (R104). -/
theorem decodeHost_encode {c : Config} {i : Instr} (h : wellFormed c .host i = true) :
    decodeHost (encode c i) = .ok i := by
  cases i with
  | init | setSpeed | update | greyRender | fadeOut | waitOff | isBusy => rfl
  | hostReserved code =>
    have hcode : code.toNat = 0 ∨ 8 ≤ code.toNat := by
      simpa [wellFormed, ← BitVec.toNat_inj] using h
    exact congrArg Except.ok (hostOfCode_reserved hcode)
  | _ => cases h

/-- The instruction of a code has that code, and is one of the host's (R105, R107). -/
theorem encode_hostOfCode (c : Config) (b : Byte) :
    encode c (hostOfCode b) = [b] ∧ wellFormed c .host (hostOfCode b) = true := by
  by_cases h : b.toNat = 0 ∨ 8 ≤ b.toNat
  · rw [hostOfCode_reserved h]
    exact ⟨rfl, by simpa [wellFormed, ← BitVec.toNat_inj] using h⟩
  · obtain ⟨n, hn, rfl⟩ : ∃ n, (1 ≤ n ∧ n ≤ 7) ∧ b = BitVec.ofNat 8 n := ⟨b.toNat, by omega, by simp⟩
    obtain ⟨hlo, hhi⟩ := hn
    interval_cases n <;> exact ⟨rfl, rfl⟩

/-! ### Bus commands (R109 to R111) -/

/-- A command is one of the thirteen names, or raw. -/
theorem Cmd.named_or_raw (k : Cmd) : k ∈ Cmd.named ∨ ∃ o, k = .raw o := by
  cases k with
  | raw o => exact .inr ⟨o, rfl⟩
  | _ => exact .inl (by decide)

/-- An opcode byte that no name has is not found. -/
theorem Opcodes.find_eq_none {o : Opcodes} {b : Byte} (h : ∀ k ∈ Cmd.named, o.byteOf k ≠ b) : o.find b = none :=
  List.find?_eq_none.mpr fun k hk => by simpa using h k hk

/-- The transaction of a bus instruction decodes to it (R108). -/
theorem decodeBus_encode {c : Config} {nb : Nat} {i : Instr} (hopc : c.opc.wf = true)
    (h : wellFormed c (.bus nb) i = true) : decodeBus c.opc nb (encode c i) = .ok i := by
  obtain ⟨k, data, hd, rfl⟩ := Machine.eq_instr_of_wellFormed h
  rw [Machine.encode_instr c hd]
  rcases k.named_or_raw with hk | ⟨o, rfl⟩
  · exact decodeBus_named hopc hk hd
  · rcases decodeBus_cases c.opc nb o data with ⟨k, hfind, hfits, -⟩ | ⟨-, hraw⟩
    · simp [wellFormed, Cmd.instr, hfind, hfits] at h
    · exact hraw

/-- A named command with data of its length is well formed (R110). -/
theorem wellFormed_instr {nb : Nat} (c : Config) {k : Cmd} {data : List Byte} (hk : k ∈ Cmd.named)
    (hd : k.fits nb data = true) : wellFormed c (.bus nb) (k.instr data) = true := by
  cases k with
  | raw o => exact absurd hk (by simp [Cmd.named])
  | dataPrevious | dataCurrent => simp_all [wellFormed, Cmd.instr, Cmd.fits, Cmd.dataLength]
  | lutVcom | lutWw | lutBw | lutWb | lutBb => exact hd
  | _ => rfl

/-- What a transaction decodes to has these bytes, and is well formed (R108 to R110). -/
theorem encode_of_decodeBus {c : Config} {nb : Nat} {bytes : List Byte} {i : Instr}
    (h : decodeBus c.opc nb bytes = .ok i) : encode c i = bytes ∧ wellFormed c (.bus nb) i = true := by
  cases bytes with
  | nil => cases h
  | cons o data =>
    rcases decodeBus_cases c.opc nb o data with ⟨k, hfind, hd, hk⟩ | ⟨hnot, hraw⟩
    · rw [hk] at h
      cases h
      obtain ⟨hbyte, hmem⟩ := Opcodes.byteOf_of_find hfind
      exact ⟨by rw [Machine.encode_instr c hd, hbyte], wellFormed_instr c hmem hd⟩
    · rw [hraw] at h
      cases h
      refine ⟨rfl, ?_⟩
      simp only [wellFormed]
      split
      · next k hfind => simp [hnot k hfind]
      · rfl

/-! ### Phase rows (R91, R92, R95) -/

theorem Polarity.white_ne_zero (pol : Polarity) : pol.white ≠ 0#2 := by cases pol <;> decide

theorem Polarity.white_ne_black (pol : Polarity) : pol.white ≠ pol.black := by cases pol <;> decide

/-- Six bytes are a row of the codes of their first (R91, R98). -/
theorem rowBytes_patCode (pat d0 d1 d2 d3 rep : Byte) :
    rowBytes (patCode pat 0) (patCode pat 1) (patCode pat 2) (patCode pat 3) d0 d1 d2 d3 rep =
      [pat, d0, d1, d2, d3, rep] := by
  rw [rowBytes, patByte_patCode]

/-- Only six bytes decode to a row (R90). -/
theorem rowBytes_of_decodeRow {pol : Polarity} {l : Lane} {bytes : List Byte} {i : Instr}
    (h : decodeRow pol l bytes = .ok i) : ∃ pat d0 d1 d2 d3 rep, bytes = [pat, d0, d1, d2, d3, rep] := by
  unfold decodeRow at h
  split at h
  · exact ⟨_, _, _, _, _, _, rfl⟩
  · cases h

/-- In the BW table an unused row, and the settle, ping-pong and final rows, have shapes of their own (R95, R135 to R137). -/
theorem specialRow_bw {pol : Polarity} {c0 c1 c2 c3 : Code} {d0 d1 d2 d3 rep : Byte} :
    specialRow pol .bw c0 c1 c2 c3 d0 d1 d2 d3 rep = true ↔
      rep = 0 ∨ (c0 = pol.black ∧ c1 = 0 ∧ c2 = 0 ∧ c3 = 0 ∧ d1 = 0 ∧ d2 = 0 ∧ d3 = 0) ∨
      (c0 = pol.black ∧ c1 = pol.white ∧ c2 = 0 ∧ c3 = 0 ∧ d1 = d0 ∧ d2 = 0 ∧ d3 = 0) ∨
      (c0 = pol.white ∧ c1 = 0 ∧ c2 = 0 ∧ c3 = 0 ∧ d1 = 0 ∧ d2 = 0 ∧ d3 = 0) := by
  simp [specialRow, and_assoc, or_assoc]

/-- In the VCOM table only an unused row has a shape of its own (R95). -/
theorem specialRow_vcom {pol : Polarity} {c0 c1 c2 c3 : Code} {d0 d1 d2 d3 rep : Byte} :
    specialRow pol .vcom c0 c1 c2 c3 d0 d1 d2 d3 rep = true ↔ rep = 0 := by
  simp [specialRow]

/-- In the other tables an unused row and the row of a greyscale pass have shapes of their own (R95, R227). -/
theorem specialRow_grey {pol : Polarity} {l : Lane} {c0 c1 c2 c3 : Code} {d0 d1 d2 d3 rep : Byte}
    (hl : l = .ww ∨ l = .wb ∨ l = .bb) : specialRow pol l c0 c1 c2 c3 d0 d1 d2 d3 rep = true ↔
      rep = 0 ∨ (c0 = pol.black ∧ c1 = 0 ∧ c2 = 0 ∧ c3 = 0 ∧ d1 = 0 ∧ d2 = 0 ∧ d3 = 0 ∧ rep = 1) := by
  rcases hl with rfl | rfl | rfl <;> simp [specialRow, and_assoc]

/-- A row of no special shape decodes to the general row (R91). -/
theorem decodeRow_of_not_special {pol : Polarity} {l : Lane} {c0 c1 c2 c3 : Code} {d0 d1 d2 d3 rep : Byte}
    (h : ¬ specialRow pol l c0 c1 c2 c3 d0 d1 d2 d3 rep = true) :
    decodeRow pol l (rowBytes c0 c1 c2 c3 d0 d1 d2 d3 rep) = .ok (.phaseRow c0 c1 c2 c3 d0 d1 d2 d3 rep) := by
  simp only [decodeRow, rowBytes, patByte_inj, and_assoc, patCode_patByte_0, patCode_patByte_1, patCode_patByte_2,
    patCode_patByte_3]
  cases l with
  | vcom =>
    rw [specialRow_vcom] at h
    rw [if_neg h]
  | bw =>
    simp only [specialRow_bw, not_or] at h
    obtain ⟨hrep, hsettle, hpingpong, hfinal⟩ := h
    rw [if_neg hrep]
    dsimp only
    rw [if_neg hsettle, if_neg hpingpong, if_neg hfinal]
  | ww | wb | bb =>
    simp only [specialRow_grey, not_or, reduceCtorEq, true_or, or_true] at h
    obtain ⟨hrep, hgrey⟩ := h
    rw [if_neg hrep]
    dsimp only
    rw [if_neg hgrey]

/-- The bytes of a row instruction decode to it at its lane (R91). -/
theorem decodeRow_encode {c : Config} {l : Lane} {i : Instr} (h : wellFormed c (.row l) i = true) :
    decodeRow c.polarity l (encode c i) = .ok i := by
  cases i with
  | phaseRow => exact decodeRow_of_not_special (by simpa [wellFormed] using h)
  | unusedRow => simp [encode, decodeRow, rowBytes]
  | settleRowBw =>
    obtain ⟨rfl, hrep⟩ : l = .bw ∧ _ := by simpa [wellFormed] using h
    simp [encode, decodeRow, rowBytes, hrep]
  | pingpongRowBw =>
    obtain ⟨rfl, hrep⟩ : l = .bw ∧ _ := by simpa [wellFormed] using h
    simp [encode, decodeRow, rowBytes, hrep, patByte_inj, Polarity.white_ne_zero]
  | finalRowBw =>
    obtain ⟨rfl, hrep⟩ : l = .bw ∧ _ := by simpa [wellFormed] using h
    simp [encode, decodeRow, rowBytes, hrep, patByte_inj, Polarity.white_ne_black]
  | greyRow =>
    have hl : (l = .ww ∨ l = .wb) ∨ l = .bb := by simpa [wellFormed] using h
    rcases hl with (rfl | rfl) | rfl <;> simp [encode, decodeRow, rowBytes]
  | _ => cases h

/-- Every row is the encoding of an instruction that is well formed at its lane (R91, R95). -/
theorem exists_wellFormed_row (c : Config) (l : Lane) (c0 c1 c2 c3 : Code) (d0 d1 d2 d3 rep : Byte) :
    ∃ i, wellFormed c (.row l) i = true ∧ encode c i = rowBytes c0 c1 c2 c3 d0 d1 d2 d3 rep := by
  by_cases h : specialRow c.polarity l c0 c1 c2 c3 d0 d1 d2 d3 rep = true
  · by_cases hrep : rep = 0
    · exact ⟨.unusedRow c0 c1 c2 c3 d0 d1 d2 d3, rfl, hrep ▸ rfl⟩
    · have hused : (rep != 0) = true := bne_iff_ne.mpr hrep
      cases l with
      | vcom => exact absurd (specialRow_vcom.mp h) hrep
      | bw =>
        rcases (specialRow_bw.mp h).resolve_left hrep with
          ⟨rfl, rfl, rfl, rfl, rfl, rfl, rfl⟩ | ⟨rfl, rfl, rfl, rfl, rfl, rfl, rfl⟩ | ⟨rfl, rfl, rfl, rfl, rfl, rfl, rfl⟩
        · exact ⟨.settleRowBw d0 rep, hused, rfl⟩
        · exact ⟨.pingpongRowBw d1 rep, hused, rfl⟩
        · exact ⟨.finalRowBw d0 rep, hused, rfl⟩
      | ww | wb | bb =>
        obtain ⟨rfl, rfl, rfl, rfl, rfl, rfl, rfl, rfl⟩ := ((specialRow_grey (by simp)).mp h).resolve_left hrep
        exact ⟨.greyRow d0, rfl, rfl⟩
  · exact ⟨.phaseRow c0 c1 c2 c3 d0 d1 d2 d3 rep, by simpa [wellFormed] using h, rfl⟩

/-- What a row decodes to has these bytes, and is well formed: it is the one instruction that the row encodes (R91). -/
theorem encode_of_decodeRow {c : Config} {l : Lane} {bytes : List Byte} {i : Instr}
    (h : decodeRow c.polarity l bytes = .ok i) : encode c i = bytes ∧ wellFormed c (.row l) i = true := by
  obtain ⟨pat, d0, d1, d2, d3, rep, rfl⟩ := rowBytes_of_decodeRow h
  rw [← rowBytes_patCode] at h ⊢
  obtain ⟨j, hj, henc⟩ := exists_wellFormed_row c l (patCode pat 0) (patCode pat 1) (patCode pat 2) (patCode pat 3)
    d0 d1 d2 d3 rep
  have hdec := decodeRow_encode hj
  rw [henc, h] at hdec
  cases hdec
  exact ⟨henc, hj⟩

/-! ### All three layers -/

/-- Settles O2: at each port the decoder takes back what the encoder wrote. -/
theorem decodeAfterEncode : Obligations.DecodeAfterEncode := by
  intro c p i hopc h
  cases p with
  | host => exact decodeHost_encode h
  | bus nb => exact decodeBus_encode hopc h
  | row l => exact decodeRow_encode h

/-- Settles O3: at each port what was decoded is well formed and has the bytes it was decoded from. -/
theorem encodeAfterDecode : Obligations.EncodeAfterDecode := by
  intro c p bytes i h
  cases p with
  | host =>
    simp only [decode, decodeHost] at h
    split at h
    · cases h
      exact encode_hostOfCode c _
    · cases h
  | bus nb => exact encode_of_decodeBus h
  | row l => exact encode_of_decodeRow h

/-- Settles O1: the decoder evaluated on each word. -/
theorem sampleWordsDecode : Obligations.SampleWordsDecode := ⟨rfl, rfl, rfl, rfl, rfl, rfl, rfl⟩

end Sys2Proof
end

section
/-!
PROOFS. SET_LUT_ROW and the decoder of a table's row (spec/30_encoding.md R97 to R99), a reserved host code (R107), a raw
command (R109), and the step that runs what was decoded.
-/
namespace Sys2Proof.Machine

/-! ### SET_LUT_ROW (R97, R99) -/

/-- The operands fit when each of the six is a byte value (R94, R97). -/
theorem RowArgs.fits_iff (a : RowArgs) :
    a.fits = true ↔ ∀ v ∈ [a.pat, a.d0, a.d1, a.d2, a.d3, a.rep], 0 ≤ v ∧ v ≤ 255 := by
  simp [RowArgs.fits, inByte, and_assoc]

/-- A row outside 0 to 6 is refused before the values are looked at (R97). -/
theorem setLutRow_outside {t : List Byte} {r : Int} (a : RowArgs) (hr : r < 0 ∨ 7 ≤ r) :
    setLutRow t r a = .error .rowIndex := if_pos hr

/-- A value that does not fit is refused (R97). -/
theorem setLutRow_unfit {t : List Byte} {r : Int} {a : RowArgs} (hlo : 0 ≤ r) (hhi : r < 7) (ha : ¬ a.fits = true) :
    setLutRow t r a = .error .duration := by
  rw [setLutRow, if_neg (by omega), if_neg ha]

/-- Six bytes are replaced (R97). -/
theorem setLutRow_fit {t : List Byte} {r : Int} {a : RowArgs} (hlo : 0 ≤ r) (hhi : r < 7) (ha : a.fits = true) :
    setLutRow t r a = .ok (t.take (6 * r.toNat) ++ a.bytes ++ t.drop (6 * r.toNat + 6)) := by
  rw [setLutRow, if_neg (by omega), if_pos ha]

/-- The byte of a value that fits one has that value. -/
theorem byteOfInt_toNat {v : Int} (h : 0 ≤ v ∧ v ≤ 255) : ((byteOfInt v).toNat : Int) = v := by
  rw [byteOfInt, BitVec.toNat_ofInt]
  omega

/-- The bytes of operands that fit have their values. -/
theorem RowArgs.bytes_toNat {a : RowArgs} (h : ∀ v ∈ [a.pat, a.d0, a.d1, a.d2, a.d3, a.rep], 0 ≤ v ∧ v ≤ 255) :
    a.bytes.map (fun b => (b.toNat : Int)) = [a.pat, a.d0, a.d1, a.d2, a.d3, a.rep] := by
  rw [show a.bytes = [a.pat, a.d0, a.d1, a.d2, a.d3, a.rep].map byteOfInt from rfl, List.map_map]
  exact (List.map_congr_left fun v hv => byteOfInt_toNat (h v hv)).trans (List.map_id _)

/-- The six bytes that stand at a row's place are what the row decoder gives (R98). -/
theorem getLutRow_append {t bytes u : List Byte} {r : Nat} (ht : t.length = 6 * r) (hb : bytes.length = 6) :
    getLutRow (t ++ bytes ++ u) r = bytes := by
  refine List.ext_getElem (by simp [getLutRow, hb]) fun k _ hk => ?_
  have hk' : (t ++ bytes ++ u)[6 * r + k]? = some bytes[k] := by
    rw [List.append_assoc, List.getElem?_append_right (by omega), List.getElem?_append_left (by omega), ht,
      Nat.add_sub_cancel_left, List.getElem?_eq_getElem hk]
  simp only [getLutRow, List.getElem_map, List.getElem_range, hk', Option.getD_some]

/-- Bytes replaced in the middle of a list leave every other byte where it was. -/
theorem getElem?_replaced {α : Type} {t bytes : List α} {n k j : Nat} (hn : n ≤ t.length) (hb : bytes.length = k)
    (hj : j < n ∨ n + k ≤ j) : (t.take n ++ bytes ++ t.drop (n + k))[j]? = t[j]? := by
  have hlen : (t.take n).length = n := List.length_take_of_le hn
  rcases hj with hj | hj
  · rw [List.append_assoc, List.getElem?_append_left (by omega), List.getElem?_take_of_lt hj]
  · rw [List.getElem?_append_right (by simp; omega), List.getElem?_drop, List.length_append, hlen, hb,
      Nat.add_sub_cancel' hj]

/-- Settles O4: the three answers of SET_LUT_ROW, and what stands in the table after the third. -/
theorem setLutRowWritesOneRow : Obligations.SetLutRowWritesOneRow := by
  intro t r pat d0 d1 d2 d3 rep ht
  refine ⟨setLutRow_outside _, fun hlo hhi hbad => ?_, fun hlo hhi hgood => ?_⟩
  · refine setLutRow_unfit hlo hhi fun hfits => ?_
    obtain ⟨v, hv, hrange⟩ := hbad
    have := (RowArgs.fits_iff _).mp hfits v hv
    omega
  · have hset := setLutRow_fit (t := t) hlo hhi ((RowArgs.fits_iff ⟨pat, d0, d1, d2, d3, rep⟩).mpr hgood)
    refine ⟨_, hset, setLutRow_length ht hset, ?_, fun j hj => getElem?_replaced (by omega) rfl hj⟩
    rw [getLutRow_append (by rw [List.length_take]; omega) rfl]
    exact RowArgs.bytes_toNat hgood

/-! ### A reserved code (R107, R268) -/

/-- An operation that is accepted and raises at once changes nothing but the latches (R264). -/
theorem raise_accept_onlyLatches (e : ErrClass) (c : Cause) (op : Option HostOp) (s : State) :
    OnlyLatches s (raise e c (accept op s)) op :=
  ⟨⟨rfl, rfl, rfl, rfl, rfl, fun _ _ => rfl⟩, rfl, rfl, rfl, rfl, rfl, rfl, rfl, rfl⟩

/-- What `raise` latches (R264). -/
theorem raise_raised (e : ErrClass) (c : Cause) (s : State) : Raised e c (raise e c s) := ⟨rfl, rfl, rfl, rfl, rfl, rfl⟩

/-- Settles O35: the code decodes as reserved, and runs to a raise without the check of INITED. -/
theorem reservedCodeIsConfigurationError : Obligations.ReservedCodeIsConfigurationError := by
  intro c b hb
  refine ⟨congrArg Except.ok (hostOfCode_reserved hb), fun s hrun => ?_⟩
  have hexec : exec (.hostReserved b) s = .next (raise .configuration .reservedOp (accept none s)) := by
    simp [exec, execHostReserved, hrun]
  exact ⟨_, hexec, raise_raised _ _ _, raise_accept_onlyLatches _ _ _ s⟩

/-! ### A raw command (R109) -/

/-- A raw command with an opcode that is no name does nothing to the chip (log 15). -/
theorem rawEffect_of_unnamed {c : Config} {o : Byte} {data : List Byte} {n : Nat}
    (h : ∀ k ∈ Cmd.named, c.opc.byteOf k ≠ o) : rawEffect c o data n = noChipState := by
  simp [rawEffect, Opcodes.find_eq_none h]

/-- Settles O16: a raw command is a `send`, of no effect when its opcode has no name. -/
theorem rawCommandCompletes : Obligations.RawCommandCompletes := by
  intro s o data hready
  obtain ⟨t, hexec, htx, hchip⟩ := exec_transacted (i := .cmdRaw o data) hready rfl rfl
  refine ⟨t, hexec, htx, fun hunnamed => ?_⟩
  rw [hchip, rawEffect_of_unnamed hunnamed]
  rfl

/-! ### The step of a decoded instruction (R100, R104, R108) -/

/-- Bytes run as the instruction they decode to. -/
theorem runBytes_of_decode {s : State} {p : Port} {bytes : List Byte} {i : Instr}
    (h : decode s.cfg p bytes = .ok i) : runBytes p bytes s = exec i s := by
  simp [runBytes, h]

/-- Settles O46: each of the three fetches hands its bytes to the decoder, under parameters that the taking of the step
has not changed. -/
theorem stepRunsDecodedInstruction : Obligations.StepRunsDecodedInstruction := by
  refine fun s i => ⟨fun v rest hturn htodo hrun hin hdec => ?_, fun c d rest bytes hturn htodo hbytes hdec => ?_,
    fun hturn hdec => ?_⟩
  · rw [step_host hturn htodo hrun hin]
    exact runBytes_of_decode (s := writeCmd v (hostTaken (turned s))) hdec
  · rw [step_action hturn htodo]
    have hsend : sendBytes (turned s) c d = .ok bytes := hbytes
    simp only [blockStep, hsend]
    exact runBytes_of_decode (s := turned s) hdec
  · rw [step, if_pos hturn]
    exact runBytes_of_decode (s := turned s) hdec

end Sys2Proof.Machine
end

section
/-!
PROOFS. What one row of a running refresh does: the holds it puts on its line, the place the engine is at afterwards, and
nothing else (spec/30_encoding.md R90, R95, R100).
-/
namespace Sys2Proof.Machine

/-! ### The frame of a row (R100) -/

/-- A line driven with nothing has the holds it had. -/
@[simp] theorem Waves.push_nil (w : Waves) (l : Lane) : w.push l [] = w := by
  cases l <;> simp [Waves.push]

/-- The state in which a row has put its holds on the line and the record of unused rows is `gap`. -/
def recorded (holds : List Hold) (gap : List Lane) (s : State) : State :=
  { s with chip := { s.chip with engine :=
      { s.chip.engine with waves := s.chip.engine.waves.push s.chip.engine.lane holds, gap := gap } } }

/-- A row that is recorded and then done has run, and has changed nothing else. -/
theorem rowDone_recorded_ran (holds : List Hold) (gap : List Lane) (k : Nat) (s : State) :
    RowRan s (rowDone (takeFree k (recorded holds gap s))) holds gap := by
  rcases rowDone_cases (takeFree k (recorded holds gap s)) with ⟨hend, hdone⟩ | ⟨-, hdone⟩
  · have hend : s.chip.engine.atEnd = true := hend
    rw [hdone]
    exact ⟨rfl, rfl, by simp [hend], rfl, rfl, ⟨rfl, rfl, rfl, rfl, rfl, fun _ _ => rfl⟩, rfl, rfl, rfl, rfl⟩
  · rw [hdone]
    refine ⟨?_, rfl, fun _ => ⟨rfl, rfl⟩, rfl, rfl, ⟨rfl, rfl, rfl, rfl, rfl, fun _ _ => rfl⟩, rfl, rfl, rfl, rfl⟩
    dsimp only [Engine.forward]
    split <;> rfl

/-- A skipped row is recorded with no holds; its lane has met an unused row (R95). -/
theorem skipRow_eq (s : State) :
    skipRow s = rowDone (takeFree 0 (recorded [] (s.chip.engine.lane :: s.chip.engine.gap) s)) := by
  simp only [recorded, Waves.push_nil]
  rfl

/-- What a used row puts on its line: a row of free values once the lane has met an unused row (log 12). -/
def drivenHolds (s : State) (h : List Hold) : List Hold :=
  if s.chip.engine.lane ∈ s.chip.engine.gap then (RowOp.free s.env.free).run else h

/-- A used row is recorded with its holds (R100). -/
theorem driveRow_eq (r : RowOp) (s : State) :
    driveRow r s = rowDone (takeFree 1 (recorded (drivenHolds s r.run) s.chip.engine.gap s)) := by
  have hrun : (if s.chip.engine.gap.contains s.chip.engine.lane then RowOp.free s.env.free else r).run =
      drivenHolds s r.run := by
    simp only [drivenHolds, List.contains_iff_mem]
    split <;> rfl
  rw [driveRow, hrun]
  rfl

/-- A skipped row drives nothing. -/
theorem skipRow_ran (s : State) : RowRan s (skipRow s) [] (s.chip.engine.lane :: s.chip.engine.gap) :=
  skipRow_eq s ▸ rowDone_recorded_ran _ _ 0 s

/-- A used row drives its line. -/
theorem driveRow_ran (r : RowOp) (s : State) : RowRan s (driveRow r s) (drivenHolds s r.run) s.chip.engine.gap :=
  driveRow_eq r s ▸ rowDone_recorded_ran _ _ 1 s

/-- An instruction that runs a used row drives its line. -/
theorem exec_drives {i : Instr} {r : RowOp} {s : State} (hexec : exec i s = .next (runRow r s)) (hrep : r.rep ≠ 0) :
    ∃ t, exec i s = .next t ∧ RowRan s t (drivenHolds s r.run) s.chip.engine.gap :=
  by
  have hdrive : runRow r s = driveRow r s := if_neg hrep
  exact ⟨_, hexec, hdrive ▸ driveRow_ran r s⟩

/-- Settles O20: each of the five shapes runs as a used row of its codes and durations, the greyscale one once. -/
theorem usedRowDrivesItsLine : Obligations.UsedRowDrivesItsLine := by
  intro s c0 c1 c2 c3 d0 d1 d2 d3 rep hrep k w e times
  exact ⟨exec_drives (r := ⟨c0, c1, c2, c3, d0, d1, d2, d3, rep⟩) rfl hrep,
    exec_drives (r := ⟨k, 0, 0, 0, d0, 0, 0, 0, rep⟩) rfl hrep,
    exec_drives (r := ⟨k, w, 0, 0, d0, d0, 0, 0, rep⟩) rfl hrep,
    exec_drives (r := ⟨w, 0, 0, 0, d0, 0, 0, 0, rep⟩) rfl hrep,
    exec_drives (r := ⟨k, 0, 0, 0, d0, 0, 0, 0, 1⟩) rfl (by decide : (1 : Byte) ≠ 0)⟩

/-- Settles O21: an unused row is skipped. -/
theorem unusedRowDrivesNothing : Obligations.UnusedRowDrivesNothing := fun s _ _ _ _ _ _ _ _ => ⟨_, rfl, skipRow_ran s⟩

/-! ### Where the engine is after a row (R90, R100) -/

/-- The engine is at the end of the refresh at the last lane of the seventh row. -/
theorem Engine.atEnd_iff (e : Engine) : e.atEnd = true ↔ nextLane e.lane = none ∧ 6 ≤ e.row := by
  simp [Engine.atEnd]

/-- A row that is recorded and then done leaves the engine at the next place. -/
theorem rowDone_recorded_advanced (holds : List Hold) (gap : List Lane) (k : Nat) (s : State) :
    RowAdvanced s (rowDone (takeFree k (recorded holds gap s))) := by
  rcases rowDone_cases (takeFree k (recorded holds gap s)) with ⟨hend, hdone⟩ | ⟨hend, hdone⟩
  · obtain ⟨hlane, hrow⟩ : nextLane s.chip.engine.lane = none ∧ 6 ≤ s.chip.engine.row := (Engine.atEnd_iff _).mp hend
    rw [hdone, RowAdvanced, hlane]
    dsimp only
    rw [if_neg (by omega)]
    exact ⟨rfl, rfl, rfl⟩
  · rw [hdone]
    cases hlane : nextLane s.chip.engine.lane with
    | some l => simp [RowAdvanced, Engine.forward, recorded, hlane]
    | none =>
      have hrow : s.chip.engine.row < 6 := by
        by_contra hrow
        exact Bool.false_ne_true (hend.symm.trans ((Engine.atEnd_iff s.chip.engine).mpr ⟨hlane, by omega⟩))
      simp [RowAdvanced, Engine.forward, recorded, hlane, hrow]

/-- A row, used or not, leaves the engine at the next place. -/
theorem runRow_advanced (r : RowOp) (s : State) : RowAdvanced s (runRow r s) := by
  rcases runRow_cases r s with ⟨-, hrun⟩ | ⟨-, hrun⟩ <;> rw [hrun]
  · exact skipRow_eq s ▸ rowDone_recorded_advanced _ _ 0 s
  · exact driveRow_eq r s ▸ rowDone_recorded_advanced _ _ 1 s

/-- A row instruction runs the row that its bytes are (R91). -/
theorem exec_of_wellFormed_row {s : State} {l : Lane} {i : Instr} (h : wellFormed s.cfg (.row l) i = true) :
    ∃ r, exec i s = .next (runRow r s) := by
  have hdec := decodeRow_encode h
  obtain ⟨pat, d0, d1, d2, d3, rep, hbytes⟩ := rowBytes_of_decodeRow hdec
  exact ⟨_, exec_of_decodeRow (hbytes ▸ hdec)⟩

/-- Settles O22: every row instruction runs a row, and after a row the engine is at the next place. -/
theorem rowMovesEngineOn : Obligations.RowMovesEngineOn := by
  intro s t i l hwf hexec
  obtain ⟨r, hrow⟩ := exec_of_wellFormed_row hwf
  rw [hrow] at hexec
  cases hexec
  exact runRow_advanced r s

end Sys2Proof.Machine
end

section
/-!
PROOFS. A whole refresh with programmed tables (spec/30_encoding.md R100, R101): 35 rows, one of one lane a step, each
line driven with the rows of its table in order.
-/
namespace Sys2Proof.Machine

/-! ### The rows of a table (R92, R98) -/

/-- Row r of a table, as the engine runs it. -/
def RowOp.ofTable (t : List Byte) (r : Nat) : RowOp :=
  let b := fun k => t[6 * r + k]?.getD 0
  ⟨patCode (b 0) 0, patCode (b 0) 1, patCode (b 0) 2, patCode (b 0) 3, b 1, b 2, b 3, b 4, b 5⟩

/-- The holds of the first n rows of a table. -/
def rowsHolds (t : List Byte) (n : Nat) : List Hold := (List.range n).flatMap fun r => (RowOp.ofTable t r).run

/-- A table gives its line the holds of its seven rows. -/
theorem tableHolds_eq (t : List Byte) : tableHolds t = rowsHolds t 7 := rfl

/-- The holds of one row more. -/
theorem rowsHolds_succ (t : List Byte) (n : Nat) : rowsHolds t (n + 1) = rowsHolds t n ++ (RowOp.ofTable t n).run := by
  simp [rowsHolds, List.range_succ]

/-- Once a row of a table is unused, so are all after it (R101). -/
theorem UsedRowsFirst.unused_of_le {t : List Byte} (h : UsedRowsFirst t) {r k : Nat} (hr : (RowOp.ofTable t r).rep = 0)
    (hrk : r ≤ k) (hk : k < 7) : (RowOp.ofTable t k).rep = 0 := by
  induction k, hrk using Nat.le_induction with
  | base => exact hr
  | succ k hrk ih => exact h k hk (ih (by omega))

/-! ### The frames of a table (R94, R100) -/

theorem holdFrames_append (a b : List Hold) : holdFrames (a ++ b) = holdFrames a + holdFrames b := by
  simp [holdFrames]

/-- A row takes the frames of its four holds, REP times. -/
theorem holdFrames_run (r : RowOp) :
    holdFrames r.run = r.rep.toNat * (r.d0.toNat + r.d1.toNat + r.d2.toNat + r.d3.toNat) := by
  have hrep (n : Nat) : holdFrames (List.replicate n r.holds).flatten =
      n * (r.d0.toNat + r.d1.toNat + r.d2.toNat + r.d3.toNat) := by
    induction n with
    | zero => simp [holdFrames]
    | succ n ih =>
      rw [List.replicate_succ, List.flatten_cons, holdFrames_append, ih]
      simp [holdFrames, RowOp.holds]
      ring
  exact hrep r.rep.toNat

/-- The frames of some rows are the sum of the frames of each. -/
theorem holdFrames_rowsHolds (t : List Byte) (n : Nat) :
    holdFrames (rowsHolds t n) = ((List.range n).map fun r => holdFrames (RowOp.ofTable t r).run).sum := by
  induction n with
  | zero => rfl
  | succ n ih => rw [rowsHolds_succ, holdFrames_append, ih, List.range_succ]; simp

/-- The holds a table gives its line take the frames of the table. -/
theorem holdFrames_tableHolds (t : List Byte) : holdFrames (tableHolds t) = tableFrames t := by
  rw [tableHolds_eq, holdFrames_rowsHolds]
  simp only [holdFrames_run]
  rfl

/-! ### The place of the engine, counted in rows done (log 4) -/

/-- How many rows of a lane's table have run after p steps of a refresh. -/
def rowsDone (p : Nat) (l : Lane) : Nat := (p + 4 - laneNumber l) / 5

theorem laneNumber_le (l : Lane) : laneNumber l ≤ 4 := by cases l <;> decide

theorem laneNumber_inj {l m : Lane} (h : laneNumber l = laneNumber m) : l = m := by
  revert h
  cases l <;> cases m <;> decide

/-- The lanes of a row follow each other by number. -/
theorem nextLane_eq (l : Lane) :
    (∃ m, nextLane l = some m ∧ laneNumber m = laneNumber l + 1) ∨ (nextLane l = none ∧ laneNumber l = 4) := by
  cases l with
  | bw => exact .inr ⟨rfl, rfl⟩
  | _ => exact .inl ⟨_, rfl, rfl⟩

/-- The step that runs a row of a lane brings that lane on by one row and no other. -/
theorem rowsDone_succ {p : Nat} {l : Lane} (hl : laneNumber l = p % 5) (m : Lane) :
    rowsDone (p + 1) m = if m = l then p / 5 + 1 else rowsDone p m := by
  have hle := laneNumber_le m
  unfold rowsDone
  split
  · next h => rw [h, hl]; omega
  · next h =>
    have hne : laneNumber m ≠ p % 5 := fun h' => h (laneNumber_inj (h'.trans hl.symm))
    omega

/-- At the step that runs a row of a lane, all its rows before that one are done. -/
theorem rowsDone_of_lane {p : Nat} {l : Lane} (hl : laneNumber l = p % 5) : rowsDone p l = p / 5 := by
  unfold rowsDone
  omega

/-- The engine of a running refresh is at its row number p, of 35, and the coming turns are its own. -/
structure AtRow (p : Nat) (s : State) : Prop where
  active : s.chip.engine.active = true
  lane   : laneNumber s.chip.engine.lane = p % 5
  row    : s.chip.engine.row = p / 5
  turns  : s.env.turnFeed.take (35 - p) = List.replicate (35 - p) true

/-- Turns that are the engine's: this one is, and so are the ones after it. -/
theorem turns_cons {feed : List Bool} {k : Nat} (h : feed.take (k + 1) = List.replicate (k + 1) true) :
    ∃ rest, feed = true :: rest ∧ rest.take k = List.replicate k true := by
  cases feed with
  | nil => cases h
  | cons b rest =>
    simp only [List.take_succ_cons, List.replicate_succ, List.cons.injEq] at h
    obtain ⟨rfl, hrest⟩ := h
    exact ⟨rest, rfl, hrest⟩

/-- The turn is the engine's. -/
theorem AtRow.engineTurn {p : Nat} {s : State} (h : AtRow p s) (hp : p < 35) : engineTurn s = true := by
  obtain ⟨k, hk⟩ : ∃ k, 35 - p = k + 1 := ⟨34 - p, by omega⟩
  obtain ⟨rest, hfeed, -⟩ := turns_cons (hk ▸ h.turns)
  simp [Machine.engineTurn, h.active, hfeed]

/-- A row that is not the last brings the engine to the next one. -/
theorem AtRow.next {p : Nat} {s t : State} (h : AtRow p s) (hp : p + 1 < 35) (hadv : RowAdvanced s t)
    (hfeed : t.env.turnFeed = s.env.turnFeed.tail) : AtRow (p + 1) t := by
  obtain ⟨hactive, hlane, hrow, hturns⟩ := h
  have hturns' : t.env.turnFeed.take (35 - (p + 1)) = List.replicate (35 - (p + 1)) true := by
    obtain ⟨k, hk⟩ : ∃ k, 35 - p = k + 1 := ⟨34 - p, by omega⟩
    obtain ⟨rest, hs, hrest⟩ := turns_cons (hk ▸ hturns)
    rw [hfeed, hs, show 35 - (p + 1) = k by omega]
    exact hrest
  unfold RowAdvanced at hadv
  rcases nextLane_eq s.chip.engine.lane with ⟨m, hm, hnum⟩ | ⟨hnone, hnum⟩
  · rw [hm] at hadv
    obtain ⟨hlane', hrow', hactive'⟩ := hadv
    have hle := laneNumber_le m
    exact ⟨hactive'.trans hactive, by rw [hlane']; omega, by omega, hturns'⟩
  · rw [hnone] at hadv
    dsimp only at hadv
    rw [if_pos (by omega)] at hadv
    obtain ⟨hlane', hrow', hactive'⟩ := hadv
    exact ⟨hactive'.trans hactive, by rw [hlane', laneNumber]; omega, by omega, hturns'⟩

/-- The last row ends the refresh, and both image slots are unspecified (spec/93 U8). -/
theorem AtRow.last {s t : State} (h : AtRow 34 s) (hadv : RowAdvanced s t) :
    t.chip.engine.active = false ∧ t.chip.prev.loose.isSome ∧ t.chip.cur.loose.isSome := by
  obtain ⟨-, hlane, hrow, -⟩ := h
  unfold RowAdvanced at hadv
  rcases nextLane_eq s.chip.engine.lane with ⟨m, -, hnum⟩ | ⟨hnone, -⟩
  · have hle := laneNumber_le m
    omega
  · rw [hnone] at hadv
    dsimp only at hadv
    rwa [if_neg (by omega)] at hadv

/-! ### What the engine reads (R41, R76) -/

/-- Two places of one refresh: the same selector, tables and images, disturbed or not as it was (R76). -/
structure Engine.SameRefresh (e e' : Engine) : Prop where
  src       : e'.src = e.src
  tables    : e'.tables = e.tables
  prev      : e'.prev = e.prev
  cur       : e'.cur = e.cur
  disturbed : e'.disturbed = e.disturbed

theorem Engine.SameRefresh.trans {a b c : Engine} (h : a.SameRefresh b) (k : b.SameRefresh c) : a.SameRefresh c :=
  ⟨k.src.trans h.src, k.tables.trans h.tables, k.prev.trans h.prev, k.cur.trans h.cur, k.disturbed.trans h.disturbed⟩

/-- The table a lane was loaded with. -/
def Engine.table (e : Engine) (l : Lane) : List Byte := (e.tables.get l).last

/-- The refresh runs programmed tables that are known, each with its used rows first (R101). -/
structure Engine.RunsProgrammed (e : Engine) : Prop where
  src       : e.src = .known .programmed
  disturbed : e.disturbed = none
  known     : ∀ l, (e.tables.get l).loose = none
  usedFirst : ∀ l, UsedRowsFirst (e.table l)

/-- It runs them to its end. -/
theorem Engine.SameRefresh.runsProgrammed {e e' : Engine} (h : e.SameRefresh e') (he : e.RunsProgrammed) :
    e'.RunsProgrammed :=
  ⟨h.src.trans he.src, h.disturbed.trans he.disturbed, by rw [h.tables]; exact he.known,
    by unfold Engine.table; rw [h.tables]; exact he.usedFirst⟩

/-- The engine reads the bytes of the table. -/
theorem Engine.RunsProgrammed.byteOf_eq {e : Engine} (h : e.RunsProgrammed) (l : Lane) (i : Nat) :
    e.byteOf l i = (e.table l)[i]?.getD 0 := by
  simp [Engine.byteOf, h.disturbed, h.src, Shadow.source, Shadow.byteAt, h.known l, Engine.table]

/-- The row it is at is that row of the table of its lane. -/
theorem Engine.RunsProgrammed.rowOp_eq {e : Engine} (h : e.RunsProgrammed) :
    e.rowOp = RowOp.ofTable (e.table e.lane) e.row := by
  simp only [Engine.rowOp, h.byteOf_eq]
  rfl

/-! ### One row of the refresh -/

/-- The holds of a lane after a row on a lane. -/
theorem Waves.get_push (w : Waves) (l m : Lane) (h : List Hold) :
    (w.push l h).get m = if m = l then w.get m ++ h else w.get m := by
  cases l <;> cases m <;> rfl

/-- A row that is unused, or on a lane that has met no unused row, drives its line with its own holds, none when it is
unused. -/
theorem runRow_ran {r : RowOp} {s : State} (h : s.chip.engine.lane ∈ s.chip.engine.gap → r.rep = 0) :
    ∃ gap, RowRan s (runRow r s) r.run gap ∧
      ∀ l ∈ gap, l ∈ s.chip.engine.gap ∨ (l = s.chip.engine.lane ∧ r.rep = 0) := by
  rcases runRow_cases r s with ⟨hrep, hrun⟩ | ⟨hrep, hrun⟩ <;> rw [hrun]
  · have hnone : r.run = [] := by simp [RowOp.run, hrep]
    refine ⟨_, hnone ▸ skipRow_ran s, fun l hl => ?_⟩
    rcases List.mem_cons.mp hl with rfl | hl
    · exact .inr ⟨rfl, hrep⟩
    · exact .inl hl
  · have hown : drivenHolds s r.run = r.run := if_neg (mt h hrep)
    exact ⟨_, hown ▸ driveRow_ran r s, fun l hl => .inl hl⟩

/-- A row stays in its refresh. -/
theorem RowRan.sameRefresh {s t : State} {holds : List Hold} {gap : List Lane} (h : RowRan s t holds gap) :
    s.chip.engine.SameRefresh t.chip.engine := by
  obtain ⟨hengine, -⟩ := h
  rw [hengine]
  exact ⟨rfl, rfl, rfl, rfl, rfl⟩

theorem SameBlock.trans {s t u : State} (h : SameBlock s t) (k : SameBlock t u) : SameBlock s u := by
  obtain ⟨hcfg, hregs, hdrv, htabs, hgrey, hmem⟩ := h
  obtain ⟨kcfg, kregs, kdrv, ktabs, kgrey, kmem⟩ := k
  exact ⟨kcfg.trans hcfg, kregs.trans hregs, kdrv.trans hdrv, ktabs.trans htabs, kgrey.trans hgrey,
    fun sp a => (kmem sp a).trans (hmem sp a)⟩

/-! ### The refresh so far -/

/-- The first p rows of the refresh that `s` has just started have run, and have led to `t`. -/
structure RefreshRan (p : Nat) (s t : State) : Prop where
  same  : s.chip.engine.SameRefresh t.chip.engine
  waves : ∀ l, t.chip.engine.waves.get l = rowsHolds (s.chip.engine.table l) (rowsDone p l)
  gap   : ∀ l ∈ t.chip.engine.gap, ∃ r < rowsDone p l, (RowOp.ofTable (s.chip.engine.table l) r).rep = 0
  chip  : t.chip = { s.chip with engine := t.chip.engine, prev := t.chip.prev, cur := t.chip.cur }
  ctl   : t.ctl = s.ctl
  pins  : t.pins = s.pins
  log   : t.log = s.log
  block : SameBlock s t

/-- A refresh that has just started has run no row. -/
theorem RefreshRan.zero {s : State} (hgap : s.chip.engine.gap = []) (hwaves : ∀ l, s.chip.engine.waves.get l = []) :
    RefreshRan 0 s s := by
  refine ⟨⟨rfl, rfl, rfl, rfl, rfl⟩, fun l => ?_, by simp [hgap], rfl, rfl, rfl, rfl, rfl, rfl, rfl, rfl, rfl,
    fun _ _ => rfl⟩
  have hnone : rowsDone 0 l = 0 := by cases l <;> rfl
  rw [hwaves, hnone]
  rfl

/-- The row the engine is at brings the refresh on by one row. -/
theorem RefreshRan.row {p : Nat} {s t u : State} {gap : List Lane} (h : RefreshRan p s t)
    (hlane : laneNumber t.chip.engine.lane = p % 5)
    (hrow : RowRan t u (RowOp.ofTable (s.chip.engine.table t.chip.engine.lane) (p / 5)).run gap)
    (hgap : ∀ l ∈ gap, l ∈ t.chip.engine.gap ∨
      (l = t.chip.engine.lane ∧ (RowOp.ofTable (s.chip.engine.table l) (p / 5)).rep = 0)) :
    RefreshRan (p + 1) s u := by
  have hsame := h.same.trans hrow.sameRefresh
  obtain ⟨hengine, hchip, -, -, -, hblock, hctl, hpins, hlog, -⟩ := hrow
  have hugap : u.chip.engine.gap = gap := by rw [hengine]
  have huwaves : u.chip.engine.waves = t.chip.engine.waves.push t.chip.engine.lane _ := congrArg Engine.waves hengine
  refine ⟨hsame, fun l => ?_, fun l hl => ?_, hchip.trans (by rw [h.chip]), hctl.trans h.ctl, hpins.trans h.pins,
    hlog.trans h.log, h.block.trans hblock⟩
  · rw [huwaves, Waves.get_push, h.waves, rowsDone_succ hlane]
    split
    · next hl => rw [hl, rowsDone_of_lane hlane, rowsHolds_succ]
    · rfl
  · rw [rowsDone_succ hlane]
    rcases hgap l (hugap ▸ hl) with hold | ⟨rfl, hrep⟩
    · obtain ⟨r, hr, hrep⟩ := h.gap l hold
      refine ⟨r, ?_, hrep⟩
      split
      · next hl' =>
        rw [hl', rowsDone_of_lane hlane] at hr
        omega
      · exact hr
    · exact ⟨p / 5, by simp, hrep⟩

/-- On a lane that has met an unused row every row is unused (R101). -/
theorem RefreshRan.unused_of_gap {p : Nat} {s t : State} (h : RefreshRan p s t) (hs : s.chip.engine.RunsProgrammed)
    (hlane : laneNumber t.chip.engine.lane = p % 5) (hp : p < 35)
    (hgap : t.chip.engine.lane ∈ t.chip.engine.gap) :
    (RowOp.ofTable (s.chip.engine.table t.chip.engine.lane) (p / 5)).rep = 0 := by
  obtain ⟨r, hr, hrep⟩ := h.gap _ hgap
  rw [rowsDone_of_lane hlane] at hr
  exact (hs.usedFirst _).unused_of_le hrep hr.le (by omega)

/-- A step of the refresh runs the row the engine is at. -/
theorem RefreshRan.step {p : Nat} {s t : State} (h : RefreshRan p s t) (hs : s.chip.engine.RunsProgrammed)
    (hat : AtRow p t) (hp : p < 35) :
    ∃ u, Machine.step t = .next u ∧ RefreshRan (p + 1) s u ∧ RowAdvanced t u ∧
      u.env.turnFeed = t.env.turnFeed.tail := by
  have hrowOp : t.chip.engine.rowOp = RowOp.ofTable (s.chip.engine.table t.chip.engine.lane) (p / 5) := by
    rw [(h.same.runsProgrammed hs).rowOp_eq, hat.row, Engine.table, h.same.tables]
    rfl
  have hturned : RefreshRan p s (turned t) := ⟨h.same, h.waves, h.gap, h.chip, h.ctl, h.pins, h.log, h.block⟩
  obtain ⟨gap, hran, hgap⟩ := runRow_ran (s := turned t) (h.unused_of_gap hs hat.lane hp)
  refine ⟨_, step_engine (hat.engineTurn hp), ?_, runRow_advanced _ (turned t), ?_⟩ <;> rw [hrowOp]
  · exact hturned.row hat.lane hran fun l hl => (hgap l hl).imp_right fun ⟨hl, hrep⟩ => ⟨hl, hl ▸ hrep⟩
  · obtain ⟨-, -, -, -, -, -, -, -, -, henv⟩ := hran
    rw [henv]
    exact if_pos hat.active

/-- The first 35 steps of a refresh whose turns are the engine's run its rows one after the other. -/
theorem refresh_runs {s : State} (hs : s.chip.engine.RunsProgrammed) (hat : AtRow 0 s) (hran : RefreshRan 0 s s)
    {p : Nat} (hp : p < 35) : ∃ t, Runs p s t ∧ AtRow p t ∧ RefreshRan p s t := by
  induction p with
  | zero => exact ⟨s, Runs.zero s, hat, hran⟩
  | succ p ih =>
    obtain ⟨t, hruns, hat, hran⟩ := ih (by omega)
    obtain ⟨u, hstep, hran, hadv, hfeed⟩ := hran.step hs hat (by omega)
    exact ⟨u, hruns.append (Runs.one hstep), hat.next hp hadv hfeed, hran⟩

/-- A refresh started on known programmed tables with their used rows first and clear trailing bytes runs them (R41,
R101). -/
theorem Engine.start_runsProgrammed {n : Nat} {c : Chip} (hsrc : c.lutSrc = .known .programmed)
    (htrailing : c.tables.trailingSet = false)
    (htables : ∀ l, (c.tables.get l).loose = none ∧ UsedRowsFirst (c.tables.get l).last) :
    (Engine.start n c).RunsProgrammed :=
  ⟨hsrc, by simp [Engine.start, htrailing], fun l => (htables l).1, fun l => (htables l).2⟩

/-- Settles O23: 34 steps lead to the last row, and its step ends the refresh. -/
theorem refreshRunsItsTables : Obligations.RefreshRunsItsTables := by
  intro s n chip hstart hsrc htrailing htables hturns
  have hs : s.chip.engine.RunsProgrammed :=
    hstart ▸ Engine.start_runsProgrammed hsrc htrailing fun l => ⟨(htables l).1, (htables l).2.2⟩
  have hat : AtRow 0 s := ⟨by rw [hstart]; rfl, by rw [hstart]; rfl, by rw [hstart]; rfl, hturns⟩
  have hran : RefreshRan 0 s s := .zero (by rw [hstart]; rfl) (by rw [hstart]; exact Engine.start_waves n chip)
  obtain ⟨t, hruns, hat, hran⟩ := refresh_runs hs hat hran (p := 34) (by omega)
  obtain ⟨u, hstep, hran, hadv, -⟩ := hran.step hs hat (by omega)
  obtain ⟨hactive, hprev, hcur⟩ := hat.last hadv
  have hholds (l : Lane) : u.chip.engine.waves.get l = tableHolds (chip.tables.get l).last := by
    have hdone : rowsDone 35 l = 7 := by cases l <;> rfl
    rw [hran.waves, hdone, hstart, tableHolds_eq]
    rfl
  exact ⟨u, hruns.append (Runs.one hstep), hactive,
    fun l => ⟨hholds l, by rw [hholds, holdFrames_tableHolds]⟩, hran.same.prev.trans (by rw [hstart]; rfl),
    hran.same.cur.trans (by rw [hstart]; rfl), hran.chip, hprev, hcur, hran.ctl, hran.pins, hran.log, hran.block⟩

end Sys2Proof.Machine
end

section
/-!
PROOFS. PERIOD (spec/40_lut_synthesizer.md R130, R144, R148): it is the integer root, and every fact about it follows
from what it means to lie below that root.
-/
namespace Sys2Proof.Machine

/-! ### The integer root (R148) -/

/-- The root search answers the largest m up to its bound with m^k ≤ n. -/
theorem le_irootBelow_iff {n k bound m : Nat} (hk : k ≠ 0) : m ≤ irootBelow n k bound ↔ m ≤ bound ∧ m ^ k ≤ n := by
  induction bound with
  | zero =>
    refine ⟨fun h => ?_, fun h => h.1⟩
    obtain rfl : m = 0 := Nat.le_zero.mp h
    simp [hk]
  | succ b ih =>
    unfold irootBelow
    split
    · next hroot => exact ⟨fun h => ⟨h, (Nat.pow_le_pow_left h k).trans hroot⟩, fun h => h.1⟩
    · next hroot =>
      refine ih.trans ⟨fun h => ⟨by omega, h.2⟩, fun h => ⟨?_, h.2⟩⟩
      have hne : m ≠ b + 1 := fun he => hroot (he ▸ h.2)
      omega

section
variable {c : Config} {q : Nat}

/-- Up to speed 6 a number is at most PERIOD exactly when its 2^F-th power is at most 2^(7*2^F - q): neither the bound of
the root search nor the floor of one frame is met there. -/
theorem le_period_iff (hhi : q ≤ 6 * 2 ^ c.fracBits) {m : Nat} :
    m ≤ period c q ↔ m ^ 2 ^ c.fracBits ≤ 2 ^ (7 * 2 ^ c.fracBits - q) := by
  have hk : 2 ^ c.fracBits ≠ 0 := by positivity
  have htwo : 2 ≤ irootBelow (2 ^ (7 * 2 ^ c.fracBits - q)) (2 ^ c.fracBits) 128 :=
    (le_irootBelow_iff hk).mpr ⟨by omega, Nat.pow_le_pow_right (by omega) (by omega)⟩
  rw [period, max_eq_left (by omega), le_irootBelow_iff hk, and_iff_right_iff_imp]
  intro hm
  have hle : m ^ 2 ^ c.fracBits ≤ 128 ^ 2 ^ c.fracBits := hm.trans <| by
    rw [show 128 = 2 ^ 7 from rfl, ← pow_mul]
    exact Nat.pow_le_pow_right (by omega) (by omega)
  exact (Nat.pow_le_pow_iff_left hk).mp hle

theorem two_le_period (hhi : q ≤ 6 * 2 ^ c.fracBits) : 2 ≤ period c q :=
  (le_period_iff hhi).mpr (Nat.pow_le_pow_right (by omega) (by omega))

theorem period_le (hlo : 2 ^ c.fracBits ≤ q) (hhi : q ≤ 6 * 2 ^ c.fracBits) : period c q ≤ 64 := by
  have hpow : period c q ^ 2 ^ c.fracBits ≤ 64 ^ 2 ^ c.fracBits := ((le_period_iff hhi).mp le_rfl).trans <| by
    rw [show 64 = 2 ^ 6 from rfl, ← pow_mul]
    exact Nat.pow_le_pow_right (by omega) (by omega)
  exact (Nat.pow_le_pow_iff_left (by positivity)).mp hpow

/-- With integer speeds the root is taken of degree one (R130). -/
theorem period_of_fracBits_zero (hhi : q ≤ 6 * 2 ^ c.fracBits) (hF : c.fracBits = 0) :
    period c q = 2 ^ (7 - q) :=
  eq_of_forall_le_iff fun m => by rw [le_period_iff hhi, hF]; simp

/-- Settles O5: PERIOD is the largest number that is at most PERIOD. -/
theorem periodIsIntegerRoot : Obligations.PeriodIsIntegerRoot := fun _ _ hlo hhi =>
  ⟨(le_period_iff hhi).mp le_rfl, not_le.mp fun h => absurd ((le_period_iff hhi).mpr h) (by omega),
    two_le_period hhi, period_le hlo hhi, period_of_fracBits_zero hhi⟩

/-! ### One unit of speed more (R144) -/

/-- Twice a number of frames fits a speed when the number fits one unit above. -/
theorem two_mul_le_period_iff (hhi : q + 2 ^ c.fracBits ≤ 6 * 2 ^ c.fracBits) {m : Nat} :
    2 * m ≤ period c q ↔ m ≤ period c (q + 2 ^ c.fracBits) := by
  rw [le_period_iff (by omega), le_period_iff hhi, mul_pow,
    show 7 * 2 ^ c.fracBits - q = 2 ^ c.fracBits + (7 * 2 ^ c.fracBits - (q + 2 ^ c.fracBits)) by omega, pow_add]
  exact Nat.mul_le_mul_left_iff (by positivity)

end

/-- Settles O6: a higher speed asks for the root of a smaller number, and one unit more halves every number of frames
that fits. -/
theorem periodHalvesPerSpeed : Obligations.PeriodHalvesPerSpeed := by
  refine fun c => ⟨fun q q' _ hle hhi => ?_, fun q _ hhi => ?_, fun hF q _ hhi => ?_⟩
  · rw [le_period_iff (by omega)]
    exact ((le_period_iff hhi).mp le_rfl).trans (Nat.pow_le_pow_right (by omega) (by omega))
  · have hdouble := (two_mul_le_period_iff hhi).mpr le_rfl
    have hnext := (two_mul_le_period_iff hhi (m := period c (q + 2 ^ c.fracBits) + 1)).not.mpr (by omega)
    omega
  · rw [period_of_fracBits_zero (by rw [hF]; omega) hF, period_of_fracBits_zero (by rw [hF]; omega) hF, ← pow_succ',
      show 7 - (q + 1) + 1 = 7 - q by omega]

end Sys2Proof.Machine
end

section
/-!
PROOFS. The tables of a synthesis (spec/40_lut_synthesizer.md R133 to R141, R145 to R147): each is a list of used rows
followed by zeros, and its bytes, its frames and its bounds are those of the list.
-/
namespace Sys2Proof.Machine

/-! ### Tables made of rows (R91, R97) -/

/-- The six bytes of a row (R91). -/
def RowOp.bytes (r : RowOp) : List Byte := rowBytes r.c0 r.c1 r.c2 r.c3 r.d0 r.d1 r.d2 r.d3 r.rep

@[simp] theorem RowOp.bytes_length (r : RowOp) : r.bytes.length = 6 := rfl

/-- A table of n bytes that begins with these rows and holds zeros after them. -/
def tableOf (n : Nat) (rows : List RowOp) : List Byte := rows.flatMap RowOp.bytes ++ zeros (n - 6 * rows.length)

@[simp] theorem tableOf_nil (n : Nat) : tableOf n [] = zeros n := rfl

theorem tableOf_cons (n : Nat) (a : RowOp) (rows : List RowOp) :
    tableOf n (a :: rows) = a.bytes ++ tableOf (n - 6) rows := by
  simp [tableOf, Nat.sub_sub, Nat.mul_add, Nat.add_comm]

theorem flatMap_bytes_length (rows : List RowOp) : (rows.flatMap RowOp.bytes).length = 6 * rows.length := by
  induction rows with
  | nil => rfl
  | cons r rows ih => simp [ih]; omega

/-- The operands with which SET_LUT_ROW writes a row (R97). -/
def RowOp.args (r : RowOp) : RowArgs :=
  ⟨(patByte r.c0 r.c1 r.c2 r.c3).toNat, r.d0.toNat, r.d1.toNat, r.d2.toNat, r.d3.toNat, r.rep.toNat⟩

theorem byteOfInt_toNat_cast (b : Byte) : byteOfInt b.toNat = b := by
  simp [byteOfInt]

theorem RowOp.args_fits (r : RowOp) : r.args.fits = true := by
  simp [RowArgs.fits_iff, RowOp.args]
  omega

theorem RowOp.args_bytes (r : RowOp) : r.args.bytes = r.bytes := by
  simp only [RowArgs.bytes, RowOp.args, byteOfInt_toNat_cast]
  rfl

/-- Rows written from row r up into the zeros behind it stand there one after the other (R138). -/
theorem setRows_zeros {t : List Byte} {r n : Nat} (rows : List RowOp) (ht : t.length = 6 * r)
    (hrow : r + rows.length ≤ 7) (hn : 6 * rows.length ≤ n) :
    setRows (t ++ zeros n) r (rows.map RowOp.args) = .ok (t ++ tableOf n rows) := by
  induction rows generalizing t r n with
  | nil => rfl
  | cons a rows ih =>
    simp only [List.length_cons] at hrow hn
    have hset : setLutRow (t ++ zeros n) r a.args = .ok (t ++ a.bytes ++ zeros (n - 6)) := by
      rw [setLutRow_fit (by omega) (by omega) a.args_fits, a.args_bytes, Int.toNat_natCast, ← ht, List.take_left,
        List.drop_append, List.drop_of_length_le (by omega)]
      simp [zeros]
    rw [List.map_cons, setRows, hset]
    refine (ih (t := t ++ a.bytes) (r := r + 1) (by simp [ht]; omega) (by omega) (by omega)).trans ?_
    rw [tableOf_cons, List.append_assoc]

/-- A row that is not used, of zeros. -/
def RowOp.zero : RowOp := ⟨0, 0, 0, 0, 0, 0, 0, 0, 0⟩

/-- The row decoder gives the bytes of the row (R98). -/
theorem getLutRow_eq_bytes (t : List Byte) (r : Nat) : getLutRow t r = (RowOp.ofTable t r).bytes := by
  simp only [RowOp.bytes, RowOp.ofTable, rowBytes, patByte_patCode]
  rfl

theorem RowOp.ofTable_zeros (n r : Nat) : RowOp.ofTable (zeros n) r = RowOp.zero := by
  have hget (i : Nat) : (zeros n)[i]?.getD 0 = 0 := by
    simp only [zeros, List.getElem?_replicate]
    split <;> rfl
  simp only [RowOp.ofTable, hget]
  rfl

theorem RowOp.ofTable_bytes_zero (a : RowOp) (t : List Byte) : RowOp.ofTable (a.bytes ++ t) 0 = a := by
  simp [RowOp.ofTable, RowOp.bytes, rowBytes]

theorem RowOp.ofTable_bytes_succ (a : RowOp) (t : List Byte) (r : Nat) :
    RowOp.ofTable (a.bytes ++ t) (r + 1) = RowOp.ofTable t r := by
  have hget (k : Nat) : (a.bytes ++ t)[6 * (r + 1) + k]? = t[6 * r + k]? := by
    rw [List.getElem?_append_right (by simp; omega), a.bytes_length]
    congr 1
    omega
  simp only [RowOp.ofTable, hget]

/-- The rows of a table are the rows it was made of, and then rows of zeros. -/
theorem RowOp.ofTable_tableOf (n : Nat) (rows : List RowOp) (r : Nat) :
    RowOp.ofTable (tableOf n rows) r = rows[r]?.getD RowOp.zero := by
  induction rows generalizing n r with
  | nil => simp [RowOp.ofTable_zeros]
  | cons a rows ih =>
    rw [tableOf_cons]
    cases r with
    | zero => simp [RowOp.ofTable_bytes_zero]
    | succ r => rw [RowOp.ofTable_bytes_succ, ih, List.getElem?_cons_succ]

/-- The sum over the places of a list, with nothing where the list has ended, is the sum over the list. -/
theorem sum_range_getElem? {α : Type} (f : α → Nat) {z : α} (hz : f z = 0) {l : List α} {n : Nat} (h : l.length ≤ n) :
    ((List.range n).map fun i => f (l[i]?.getD z)).sum = (l.map f).sum := by
  induction l generalizing n with
  | nil => simp [hz]
  | cons a l ih =>
    obtain ⟨n, rfl⟩ : ∃ m, n = m + 1 := ⟨n - 1, by simp at h; omega⟩
    rw [List.range_succ_eq_map, List.map_cons, List.sum_cons, List.map_map, List.map_cons, List.sum_cons,
      ← ih (n := n) (by simpa using h)]
    rfl

/-- A table of at most seven rows takes the frames of its rows (R100). -/
theorem tableFrames_tableOf (n : Nat) {rows : List RowOp} (h : rows.length ≤ 7) :
    tableFrames (tableOf n rows) = (rows.map fun r => holdFrames r.run).sum := by
  rw [← holdFrames_tableHolds, tableHolds_eq, holdFrames_rowsHolds]
  simp only [RowOp.ofTable_tableOf]
  exact sum_range_getElem? (fun r => holdFrames r.run) (holdFrames_run RowOp.zero) h

/-! ### The phases as rows (R133 to R137, R140) -/

/-- The row of a phase in a table in which it drives `a` and then `b`. -/
def Phase.op (f : Phase) (a b : Code) : RowOp :=
  ⟨a, b, 0, 0, BitVec.ofNat 8 f.d0, BitVec.ofNat 8 f.d1, 0, 0, BitVec.ofNat 8 f.rep⟩

/-- The durations and the repeat of a phase are within the bounds of R147. -/
structure Phase.Bounded (f : Phase) : Prop where
  d0  : f.d0 ≤ 64
  d1  : f.d1 ≤ 64
  rep : f.rep ≤ 2

section
variable {c : Config} {q : Nat}

theorem settlePhase_bounded (hlo : 2 ^ c.fracBits ≤ q) (hhi : q ≤ 6 * 2 ^ c.fracBits) : (settlePhase c q).Bounded :=
  ⟨period_le hlo hhi, Nat.zero_le _, show 1 ≤ 2 by omega⟩

theorem pingpongPhase_bounded (hlo : 2 ^ c.fracBits ≤ q) (hhi : q ≤ 6 * 2 ^ c.fracBits) :
    (pingpongPhase c q).Bounded := by
  have hhalf : halfPeriod c q ≤ 64 := (Nat.div_le_self _ 2).trans (period_le hlo hhi)
  refine ⟨hhalf, hhalf, ?_⟩
  show ppRepeat c q ≤ 2
  unfold ppRepeat
  split <;> omega

theorem finalPhase_bounded (hlo : 2 ^ c.fracBits ≤ q) (hhi : q ≤ 6 * 2 ^ c.fracBits) (fr : Bool) :
    (finalPhase c q fr).Bounded := by
  refine ⟨period_le hlo hhi, Nat.zero_le _, ?_⟩
  show finalRepeat c q fr ≤ 2
  unfold finalRepeat
  split <;> omega

end

/-- A byte holds a bounded duration or repeat. -/
theorem toNat_ofNat_of_le {n : Nat} (h : n ≤ 64) : (BitVec.ofNat 8 n).toNat = n := by
  rw [BitVec.toNat_ofNat]
  omega

theorem patByte_toNat (a b : Code) : (patByte a b 0 0).toNat = a.toNat <<< 6 ||| b.toNat <<< 4 := by
  revert a b
  decide

/-- The operands the synthesizer writes for a phase are those of its row. -/
theorem Phase.Bounded.row_eq {f : Phase} (h : f.Bounded) {pat : Nat} {a b : Code}
    (hpat : pat = a.toNat <<< 6 ||| b.toNat <<< 4) : f.row pat = (f.op a b).args := by
  simp only [Phase.row, RowOp.args, Phase.op, patByte_toNat, hpat, toNat_ofNat_of_le h.d0, toNat_ofNat_of_le h.d1,
    toNat_ofNat_of_le (h.rep.trans (show 2 ≤ 64 by omega))]
  rfl

/-- The same for a phase of one code. -/
theorem Phase.Bounded.row_eq_single {f : Phase} (h : f.Bounded) {pat : Nat} {a : Code} (hpat : pat = a.toNat <<< 6) :
    f.row pat = (f.op a 0).args := h.row_eq (hpat.trans (Nat.or_zero _).symm)

/-- A row of a phase takes the frames of its two holds, as often as it is repeated (R100). -/
theorem Phase.Bounded.holdFrames_op {f : Phase} (h : f.Bounded) (a b : Code) :
    holdFrames (f.op a b).run = f.rep * (f.d0 + f.d1) := by
  rw [holdFrames_run]
  simp [Phase.op, toNat_ofNat_of_le h.d0, toNat_ofNat_of_le h.d1,
    toNat_ofNat_of_le (h.rep.trans (show 2 ≤ 64 by omega))]

/-- The rows of the phases a synthesis includes, in a table in which they drive `a` and then `b` (R135 to R138). -/
def synthRows (c : Config) (q : Nat) (fr : Bool) (a b : Code) : List RowOp :=
  (if hasSettle c q then [(settlePhase c q).op a 0] else []) ++
    (if hasPingpong c q fr then [(pingpongPhase c q).op a b] else []) ++ [(finalPhase c q fr).op b 0]

theorem synthRows_length_le (c : Config) (q : Nat) (fr : Bool) (a b : Code) : (synthRows c q fr a b).length ≤ 3 := by
  unfold synthRows
  split <;> split <;> simp

/-- A row of a synthesis is that of a bounded phase, and code 11 is in it only where its table drives 11. -/
theorem mem_synthRows {c : Config} {q : Nat} (hlo : 2 ^ c.fracBits ≤ q) (hhi : q ≤ 6 * 2 ^ c.fracBits) {fr : Bool}
    {a b : Code} (ha : a ≠ 3) (hb : b ≠ 3) {r : RowOp} (hr : r ∈ synthRows c q fr a b) :
    ∃ (f : Phase) (x y : Code), r = f.op x y ∧ f.Bounded ∧ x ≠ 3 ∧ y ≠ 3 := by
  simp only [synthRows, List.mem_append, List.mem_ite_nil_right, List.mem_singleton] at hr
  rcases hr with (⟨-, rfl⟩ | ⟨-, rfl⟩) | rfl
  · exact ⟨_, _, _, rfl, settlePhase_bounded hlo hhi, ha, by decide⟩
  · exact ⟨_, _, _, rfl, pingpongPhase_bounded hlo hhi, ha, hb⟩
  · exact ⟨_, _, _, rfl, finalPhase_bounded hlo hhi fr, hb, by decide⟩

/-- The rows of a synthesis take the frames of R146, whatever codes they drive. -/
theorem synthRows_frames {c : Config} {q : Nat} (hlo : 2 ^ c.fracBits ≤ q) (hhi : q ≤ 6 * 2 ^ c.fracBits) (fr : Bool)
    (a b : Code) : ((synthRows c q fr a b).map fun r => holdFrames r.run).sum = refreshFrames c q fr := by
  simp only [synthRows, refreshFrames, List.map_append, List.sum_append, apply_ite (List.map _), apply_ite List.sum,
    List.map_cons, List.map_nil, List.sum_singleton, List.sum_nil, (settlePhase_bounded hlo hhi).holdFrames_op,
    (pingpongPhase_bounded hlo hhi).holdFrames_op, (finalPhase_bounded hlo hhi fr).holdFrames_op]
  simp only [settlePhase, pingpongPhase, finalPhase, ← two_mul, Nat.add_zero, Nat.mul_comm]

/-- The operands of the phases, where their patterns are those of a table that drives `a` and then `b`, are those of its
rows. -/
theorem phases_args {c : Config} {q : Nat} (hlo : 2 ^ c.fracBits ≤ q) (hhi : q ≤ 6 * 2 ^ c.fracBits) (fr : Bool)
    {a b : Code} {pat : Phase → Nat} (hsettle : pat (settlePhase c q) = a.toNat <<< 6)
    (hpingpong : pat (pingpongPhase c q) = a.toNat <<< 6 ||| b.toNat <<< 4)
    (hfinal : pat (finalPhase c q fr) = b.toNat <<< 6) :
    (phases c q fr).map (fun f => f.row (pat f)) = (synthRows c q fr a b).map RowOp.args := by
  simp only [phases, synthRows, List.map_append, apply_ite (List.map _), List.map_cons, List.map_nil,
    (settlePhase_bounded hlo hhi).row_eq_single hsettle, (pingpongPhase_bounded hlo hhi).row_eq hpingpong,
    (finalPhase_bounded hlo hhi fr).row_eq_single hfinal]

/-! ### The tables of a synthesis (R138 to R141) -/

/-- The rows of each table: BW and WB drive the two colours in opposite order, VCOM holds the null code in step with them,
WW and BB are as BW and WB, or unused (R139, R140). -/
def laneRows (c : Config) (q : Nat) (fr : Bool) : Lane → List RowOp
  | .vcom => synthRows c q fr 0 0
  | .ww => if fr then [] else synthRows c q fr c.polarity.black c.polarity.white
  | .wb => synthRows c q fr c.polarity.white c.polarity.black
  | .bb => if fr then [] else synthRows c q fr c.polarity.white c.polarity.black
  | .bw => synthRows c q fr c.polarity.black c.polarity.white

/-- The tables of SYNTHESIZE, each made of its rows. -/
def synthTables (c : Config) (q : Nat) (fr : Bool) : Tables :=
  { vcom := tableOf 44 (laneRows c q fr .vcom), ww := tableOf 42 (laneRows c q fr .ww),
    wb := tableOf 42 (laneRows c q fr .wb), bb := tableOf 42 (laneRows c q fr .bb),
    bw := tableOf 42 (laneRows c q fr .bw) }

theorem synthTables_get (c : Config) (q : Nat) (fr : Bool) (l : Lane) :
    (synthTables c q fr).get l = tableOf (windowLength l) (laneRows c q fr l) := by
  cases l <;> rfl

/-- Rows of a synthesis written into an empty table (R138). -/
theorem setRows_synthRows {n : Nat} (hn : 42 ≤ n) (c : Config) (q : Nat) (fr : Bool) (a b : Code) :
    setRows (zeros n) 0 ((synthRows c q fr a b).map RowOp.args) = .ok (tableOf n (synthRows c q fr a b)) := by
  have hlen := synthRows_length_le c q fr a b
  exact setRows_zeros (t := []) (r := 0) _ rfl (by omega) (by omega)

/-- At a legal speed of at least 1 a synthesis gives its tables: no row is outside the table and no operand too large. -/
theorem synthesize_eq {c : Config} {q : Nat} (hlo : 2 ^ c.fracBits ≤ q) (hhi : q ≤ 6 * 2 ^ c.fracBits) (fr : Bool) :
    synthesize c q fr = .ok (some (synthTables c q fr)) := by
  have hq : q ≠ 0 := (Nat.lt_of_lt_of_le (by positivity) hlo).ne'
  have hbw := phases_args hlo hhi fr (a := c.polarity.black) (b := c.polarity.white) (pat := Phase.bw) rfl rfl rfl
  have hwb := phases_args hlo hhi fr (a := c.polarity.white) (b := c.polarity.black) (pat := Phase.wb) rfl rfl rfl
  have hvcom := phases_args hlo hhi fr (a := 0) (b := 0) (pat := fun _ => 0) rfl rfl rfl
  simp only [synthesize, if_neg hq, hbw, hwb, hvcom, setRows_synthRows (show 42 ≤ 42 by omega),
    setRows_synthRows (show 42 ≤ 44 by omega)]
  cases fr <;> rfl

/-- The tables of a legal synthesis are these and no others. -/
theorem eq_synthTables {c : Config} {q : Nat} {fr : Bool} {t : Tables} (hlo : 2 ^ c.fracBits ≤ q)
    (hhi : q ≤ 6 * 2 ^ c.fracBits) (h : synthesize c q fr = .ok (some t)) : t = synthTables c q fr := by
  rw [synthesize_eq hlo hhi] at h
  cases h
  rfl

/-! ### The bytes (R135 to R140) -/

/-- The bytes of a row that a table has under a condition. -/
theorem flatMap_bytes_ite (p : Prop) [Decidable p] (r : RowOp) :
    (if p then [r] else []).flatMap RowOp.bytes = if p then r.bytes else [] := by
  split <;> simp

/-- The bytes of the rows of a synthesis, each phase under its condition. -/
theorem synthRows_bytes (c : Config) (q : Nat) (fr : Bool) (a b : Code) :
    (synthRows c q fr a b).flatMap RowOp.bytes =
      (if q < 4 * 2 ^ c.fracBits then rowBytes a 0 0 0 (BitVec.ofNat 8 (period c q)) 0 0 0 1 else []) ++
      (if fr = false ∧ q < c.ppThreshold then
        rowBytes a b 0 0 (BitVec.ofNat 8 (period c q / 2)) (BitVec.ofNat 8 (period c q / 2)) 0 0
          (if q ∈ c.ppTwice then 2 else 1) else []) ++
      rowBytes b 0 0 0 (BitVec.ofNat 8 (period c q)) 0 0 0 (if 4 * 2 ^ c.fracBits ≤ q ∨ fr = true then 2 else 1) := by
  have hsettle : hasSettle c q = true ↔ q < 4 * 2 ^ c.fracBits := decide_eq_true_iff
  have hpingpong : hasPingpong c q fr = true ↔ fr = false ∧ q < c.ppThreshold := by simp [hasPingpong]
  have hpp : BitVec.ofNat 8 (ppRepeat c q) = if q ∈ c.ppTwice then 2 else 1 := apply_ite (BitVec.ofNat 8) ..
  have hlast : BitVec.ofNat 8 (finalRepeat c q fr) = if 4 * 2 ^ c.fracBits ≤ q ∨ fr = true then 2 else 1 :=
    apply_ite (BitVec.ofNat 8) ..
  rw [← hpp, ← hlast]
  simp only [synthRows, List.flatMap_append, flatMap_bytes_ite, List.flatMap_singleton, hsettle, hpingpong]
  rfl

/-- Settles O7: the tables hold the bytes of their rows, then zeros. -/
theorem synthesizedTableBytes : Obligations.SynthesizedTableBytes := by
  intro c q fr hlo hhi k w p hp pp last rows
  have htable (n : Nat) (a b : Code) :
      tableOf n (synthRows c q fr a b) = rows a b ++ zeros (n - (rows a b).length) := by
    rw [tableOf, ← flatMap_bytes_length, synthRows_bytes]
  exact ⟨_, synthesize_eq hlo hhi fr, htable 42 k w, htable 42 w k, htable 44 0 0⟩

/-- Settles O8: what SYNTHESIZE puts in WW and BB. -/
theorem flickerSelectsCopiesOrZero : Obligations.FlickerSelectsCopiesOrZero := fun _ _ fr hlo hhi =>
  ⟨_, synthesize_eq hlo hhi fr, by rintro rfl; exact ⟨rfl, rfl⟩, by rintro rfl; exact ⟨rfl, rfl⟩⟩

/-! ### The frames (R146) -/

/-- Settles O9: the frames of a table are those of its rows. -/
theorem synthesizedRefreshLength : Obligations.SynthesizedRefreshLength := by
  intro c q fr t hlo hhi ht p hp frames
  obtain rfl := eq_synthTables hlo hhi ht
  have hframes : refreshFrames c q fr = frames := by
    simp only [refreshFrames, hasSettle, hasPingpong, Bool.and_eq_true, Bool.not_eq_true', decide_eq_true_iff]
    rfl
  have hused (n : Nat) (a b : Code) : tableFrames (tableOf n (synthRows c q fr a b)) = frames := by
    rw [tableFrames_tableOf n ((synthRows_length_le c q fr a b).trans (by omega)), synthRows_frames hlo hhi, hframes]
  have hcopy (a b : Code) : tableFrames (tableOf 42 (if fr then [] else synthRows c q fr a b)) =
      if fr then 0 else frames := by
    split
    · exact tableFrames_tableOf 42 (rows := []) (by simp)
    · exact hused 42 a b
  exact ⟨hused .., hused .., hused .., hcopy .., hcopy ..⟩

/-! ### The bounds (R147) -/

theorem black_ne_three (pol : Polarity) : pol.black ≠ 3 := by cases pol <;> decide

theorem white_ne_three (pol : Polarity) : pol.white ≠ 3 := by cases pol <;> decide

/-- Every row of every table is that of a bounded phase without code 11: an unused row too, as a phase of zeros. -/
theorem ofTable_synthTables {c : Config} {q : Nat} (hlo : 2 ^ c.fracBits ≤ q) (hhi : q ≤ 6 * 2 ^ c.fracBits) (fr : Bool)
    (l : Lane) (r : Nat) : ∃ (f : Phase) (x y : Code),
      RowOp.ofTable ((synthTables c q fr).get l) r = f.op x y ∧ f.Bounded ∧ x ≠ 3 ∧ y ≠ 3 := by
  have hb := black_ne_three c.polarity
  have hw := white_ne_three c.polarity
  have hlane : ∀ a ∈ laneRows c q fr l, ∃ (f : Phase) (x y : Code), a = f.op x y ∧ f.Bounded ∧ x ≠ 3 ∧ y ≠ 3 := by
    intro a ha
    cases l
    case vcom => exact mem_synthRows hlo hhi (by decide) (by decide) ha
    case bw => exact mem_synthRows hlo hhi hb hw ha
    case wb => exact mem_synthRows hlo hhi hw hb ha
    case ww => exact mem_synthRows hlo hhi hb hw (List.mem_ite_nil_left.mp ha).2
    case bb => exact mem_synthRows hlo hhi hw hb (List.mem_ite_nil_left.mp ha).2
  rw [synthTables_get, RowOp.ofTable_tableOf]
  cases hr : (laneRows c q fr l)[r]? with
  | none => exact ⟨⟨0, 0, 0, 0, 0⟩, 0, 0, rfl, ⟨by simp, by simp, by simp⟩, by decide, by decide⟩
  | some a => exact hlane a (List.mem_of_getElem? hr)

/-- Settles O10: the bytes of a row are those of its phase. -/
theorem synthesizedRowsStayInBounds : Obligations.SynthesizedRowsStayInBounds := by
  intro c q fr t l r hlo hhi ht _
  obtain rfl := eq_synthTables hlo hhi ht
  obtain ⟨f, x, y, hrow, ⟨hd0, hd1, hrep⟩, hx, hy⟩ := ofTable_synthTables hlo hhi fr l r
  refine ⟨patByte x y 0 0, BitVec.ofNat 8 f.d0, BitVec.ofNat 8 f.d1, BitVec.ofNat 8 f.rep, ?_, by simpa, by simpa,
    by simp, by simp, ?_, ?_, ?_⟩
  · rw [getLutRow_eq_bytes, hrow]
    rfl
  · exact (toNat_ofNat_of_le hd0).trans_le hd0
  · exact (toNat_ofNat_of_le hd1).trans_le hd1
  · exact (toNat_ofNat_of_le (by omega)).trans_le hrep

end Sys2Proof.Machine
end

section
/-!
PROOFS. The synthesizer in the host operations: the checks of INIT, SET_SPEED and GREY_RENDER (spec/60_exceptions.md R268),
the script of UPDATE and its two table actions (spec/41_refresh_sequencer.md R178 to R186), and a whole SET_SPEED to
speed 0 (R142, R176).
-/
namespace Sys2Proof.Machine

/-! ### Operations that are accepted -/

/-- An INIT that is accepted: its two checks, then its script (R175). -/
theorem exec_init_accepted {s : State} (hrun : s.ctl.running = false) :
    exec .init s = .next (
      if !resolutionOk s.cfg s.regs.cfgWidth.toNat s.regs.cfgHeight.toNat then
        raise .configuration .resolution (accept (some .init) s)
      else if !speedOk s.cfg s.regs.argSpeed then raise .configuration .speed (accept (some .init) s)
      else start (initScript s.cfg s.regs.argSpeed) (latchConfig (accept (some .init) s))) :=
  congrArg Host.Outcome.next (hostOp_accepts hrun (.inl rfl))

/-- A SET_SPEED that is accepted: its check, then its script (R176). -/
theorem exec_setSpeed_accepted {s : State} (hrun : s.ctl.running = false) (hinit : s.ctl.inited = true) :
    exec .setSpeed s = .next (
      if !speedOk s.cfg s.regs.argSpeed then raise .configuration .speed (accept (some .setSpeed) s)
      else start (setSpeedScript s.cfg s.regs.argSpeed) (latchSpeed (accept (some .setSpeed) s))) :=
  congrArg Host.Outcome.next (hostOp_accepts hrun (.inr hinit))

/-- A GREY_RENDER that is accepted: its checks in the order of R232, then its script (R231). -/
theorem exec_greyRender_accepted {s : State} (hrun : s.ctl.running = false) (hinit : s.ctl.inited = true) :
    exec .greyRender s = .next (
      let g := s.regs.argG.toNat
      let a := accept (some .greyRender) s
      if g < 1 ∨ Config.gMax < g then raise .configuration .greyLevels a
      else if greyStep s.cfg g = 0 then raise .configuration .greyLevels a
      else if s.drv.speed = 0 then raise .unspecified .greyAtSpeedZero a
      else if 2 ≤ g ∧ 255 < greyStep s.cfg g * (greyLastBase g + 3) then raise .configuration .duration a
      else start greyScript { a with grey := { a.grey with g := g } }) :=
  congrArg Host.Outcome.next (hostOp_accepts hrun (.inr hinit))

/-! ### The checks (R132, R232, R268) -/

/-- `SPEED_CHECK` fails below speed 1, but for speed 0, and above speed 6 (R132). -/
theorem speedOk_eq_false_iff (c : Config) (q : Nat) :
    speedOk c q = false ↔ q ≠ 0 ∧ (q < 2 ^ c.fracBits ∨ 6 * 2 ^ c.fracBits < q) := by
  have hdef : speedOk c q = (q == 0 || (decide (2 ^ c.fracBits ≤ q) && decide (q ≤ 6 * 2 ^ c.fracBits))) := rfl
  simp only [hdef, Bool.eq_false_iff, ne_eq, Bool.or_eq_true, beq_iff_eq, Bool.and_eq_true, decide_eq_true_eq]
  omega

/-- An operation that raises as soon as it is accepted changes only the latches (R264). -/
theorem exec_raises {i : Instr} {s : State} {e : ErrClass} {c : Cause} {op : Option HostOp}
    (h : exec i s = .next (raise e c (accept op s))) :
    ∃ t, exec i s = .next t ∧ Raised e c t ∧ OnlyLatches s t op :=
  ⟨_, h, raise_raised e c _, raise_accept_onlyLatches e c op s⟩

/-- A GREY_RENDER with legal grey levels goes on to the checks of the speed and of the durations (R232). -/
theorem exec_greyRender_levels_ok {s : State} (hrun : s.ctl.running = false) (hinit : s.ctl.inited = true)
    (hG : ¬ (s.regs.argG.toNat < 1 ∨ 32 < s.regs.argG.toNat ∨ s.cfg.framesToBlack / s.regs.argG.toNat = 0)) :
    exec .greyRender s = .next (
      let g := s.regs.argG.toNat
      let a := accept (some .greyRender) s
      if s.drv.speed = 0 then raise .unspecified .greyAtSpeedZero a
      else if 2 ≤ g ∧ 255 < greyStep s.cfg g * (greyLastBase g + 3) then raise .configuration .duration a
      else start greyScript { a with grey := { a.grey with g := g } }) := by
  obtain ⟨hlow, hhigh, hstep⟩ : ¬ s.regs.argG.toNat < 1 ∧ ¬ Config.gMax < s.regs.argG.toNat ∧
      ¬ greyStep s.cfg s.regs.argG.toNat = 0 :=
    ⟨fun h => hG (.inl h), fun h => hG (.inr (.inl h)), fun h => hG (.inr (.inr h))⟩
  rw [exec_greyRender_accepted hrun hinit]
  exact congrArg Host.Outcome.next ((if_neg (not_or.mpr ⟨hlow, hhigh⟩)).trans (if_neg hstep))

/-- Settles O37: the check that fails is the first of its operation that does. -/
theorem failedChecksChangeOnlyLatches : Obligations.FailedChecksChangeOnlyLatches := by
  intro s hrun badRes badSpeed g badG long
  refine ⟨fun hres => exec_raises ?_, fun hres hspeed => exec_raises ?_, fun hinit hspeed => exec_raises ?_,
    fun hinit hG => exec_raises ?_, fun hinit hG hspeed => exec_raises ?_, fun hinit hG hspeed hlong => exec_raises ?_⟩
  · rw [exec_init_accepted hrun, hres]
    rfl
  · rw [exec_init_accepted hrun, Bool.eq_true_of_not_eq_false hres, (speedOk_eq_false_iff _ _).mpr hspeed]
    rfl
  · rw [exec_setSpeed_accepted hrun hinit, (speedOk_eq_false_iff _ _).mpr hspeed]
    rfl
  · rw [exec_greyRender_accepted hrun hinit]
    by_cases hrange : g < 1 ∨ Config.gMax < g
    · exact congrArg Host.Outcome.next (if_pos hrange)
    · have hstep : greyStep s.cfg g = 0 := by
        rcases hG with h | h | h
        · exact absurd (.inl h) hrange
        · exact absurd (.inr h) hrange
        · exact h
      exact congrArg Host.Outcome.next ((if_neg hrange).trans (if_pos hstep))
  · rw [exec_greyRender_levels_ok hrun hinit hG]
    exact congrArg Host.Outcome.next (if_pos hspeed)
  · rw [exec_greyRender_levels_ok hrun hinit hG]
    exact congrArg Host.Outcome.next ((if_neg hspeed).trans (if_pos hlong))

/-! ### UPDATE (R178 to R186) -/

/-- `INJ` is the injection condition (R180). -/
theorem injects_eq (s : State) :
    injects s = decide (s.drv.fr = true ∧ 2 ^ s.cfg.fracBits ≤ s.drv.speed ∧ s.drv.fullPeriod ≠ 0 ∧
      s.drv.updateCount % s.drv.fullPeriod = 0) := by
  have hdef : injects s = (s.drv.fr && decide (2 ^ s.cfg.fracBits ≤ s.drv.speed) && s.drv.fullPeriod != 0 &&
    s.drv.updateCount % s.drv.fullPeriod == 0) := rfl
  rw [hdef, Bool.eq_iff_iff]
  simp [and_assoc]

theorem transactions_append (l m : List Event) : transactions (l ++ m) = transactions l ++ transactions m :=
  List.filterMap_append

/-- A sample that is taken is noted, and nothing else changes (R171). -/
theorem afterIsBusy_eq (s : State) : afterIsBusy s = { s with log := { s.log with
    trace := s.log.trace ++ if s.drv.hasBusy then [.sample (busyLevel s)] else [] } } := by
  cases h : s.drv.hasBusy with
  | false => simp [afterIsBusy_of_no_wire h]
  | true => exact afterIsBusy_of_wire h

/-- An UPDATE that is not rejected is accepted and begins, at most a sample noted before (R178, R179). -/
theorem exec_update_begins {s : State} (hrun : s.ctl.running = false) (hinit : s.ctl.inited = true)
    (hstarts : s.regs.argFlags.getLsbD 2 = true ∨ s.drv.hasBusy = false ∨ busyLevel s = false) :
    ∃ samples, transactions samples = [] ∧ exec .update s = .next (beginUpdate
      { accept (some .update) s with log := { s.log with trace := s.log.trace ++ samples } }) := by
  have hexec : exec .update s = .next (
      if s.regs.argFlags.getLsbD 2 then beginUpdate (accept (some .update) s)
      else if isBusyNow s then ret false (afterIsBusy (accept (some .update) s))
      else beginUpdate (afterIsBusy (accept (some .update) s))) :=
    congrArg Host.Outcome.next (hostOp_accepts hrun (.inr hinit))
  by_cases hblocking : s.regs.argFlags.getLsbD 2 = true
  · refine ⟨[], rfl, ?_⟩
    rw [hexec, if_pos hblocking, List.append_nil]
    rfl
  · have hnow : ¬ isBusyNow s = true := by
      rcases hstarts.resolve_left hblocking with h | h <;> simp [isBusyNow, h]
    rw [hexec, if_neg hblocking, if_neg hnow, afterIsBusy_eq]
    refine ⟨_, ?_, rfl⟩
    split <;> rfl

/-- A synthesis at a legal speed of at least 1 fills the table buffers and goes on (R141). -/
theorem doSynth_tables {q : Nat} (fr : Bool) {s : State} (hlo : 2 ^ s.cfg.fracBits ≤ q) (hhi : q ≤ 6 * 2 ^ s.cfg.fracBits) :
    ∃ tabs, synthesize s.cfg q fr = .ok (some tabs) ∧ doSynth q fr s = { s with tabs := tabs, ctl := s.ctl.next } :=
  ⟨_, synthesize_eq hlo hhi fr, by simp only [doSynth, synthesize_eq hlo hhi fr]; rfl⟩

/-- `FULL_REFRESH_SPEED` of well-formed parameters is legal (R7). -/
theorem fullSpeed_legal {c : Config} (h : c.wf = true) :
    2 ^ c.fracBits ≤ c.fullSpeed ∧ c.fullSpeed ≤ 6 * 2 ^ c.fracBits := by
  simp only [Config.wf, Bool.and_eq_true, decide_eq_true_eq] at h
  obtain ⟨⟨-, hlo⟩, hhi⟩ := h
  exact ⟨hlo, hhi⟩

/-- Settles O29: acceptance and at most one sample, then the script; and the two syntheses at legal speeds. -/
theorem updateScriptOrder : Obligations.UpdateScriptOrder := by
  refine ⟨fun s hrun hinit hstarts => ?_, fun s hwf => ⟨?_, doSynth_tables _, fun hzero => ?_⟩⟩
  · intro inj blocking buf luts
    obtain ⟨samples, hsamples, hexec⟩ := exec_update_begins hrun hinit hstarts
    refine ⟨_, hexec, rfl, rfl, injects_eq s, rfl, rfl, ?_, ?_, rfl, rfl, rfl, rfl, rfl, rfl, rfl, fun _ _ => rfl⟩
    · rw [show inj = injects s from (injects_eq s).symm]
      rfl
    · exact (transactions_append _ _).trans (by rw [hsamples, List.append_nil])
  · obtain ⟨hlo, hhi⟩ := fullSpeed_legal hwf
    exact doSynth_tables false hlo hhi
  · simp only [perform, doSynth, hzero]
    rfl

/-! ### One action of a script on a quiet chip -/

/-- With no refresh running a step performs the action the block is at. -/
theorem step_perform {s : State} {a : Action} {rest : List Action} (hidle : s.chip.engine.active = false)
    (htodo : s.ctl.todo = a :: rest) (ha : ∀ c d, a ≠ .send c d) : step s = .next (perform a (turned s)) := by
  rw [step_action (by simp [engineTurn, hidle]) htodo]
  cases a with
  | send c d => exact absurd rfl (ha c d)
  | _ => rfl

/-- On a quiet chip a step at a `send` makes its transaction, the chip takes the effect of the command, and the memory
is as before (R170). -/
theorem step_send {s : State} {k : Nat} {c : Cmd} {d : Payload} {data : List Byte} {rest : List Action}
    (hopc : s.cfg.opc.wf = true) (hquiet : Quiet (k + 2) s) (htodo : s.ctl.todo = .send c d :: rest)
    (hc : c ∈ Cmd.named) (hdata : payload s d = .ok data) (hfits : c.fits s.drv.nb data = true) :
    ∃ t, step s = .next t ∧ Transacted (turned s) t c data ∧
      t.chip = (namedEffect s.cfg c data (s.env.free + 1)).ready s.chip ∧ t.mem = s.mem := by
  have hready : busyLevel (turned s) = false := hquiet.turned.ready
  have hpayload : payload (turned s) d = .ok data := hdata
  have hstep := step_action (by simp [engineTurn, hquiet.1]) htodo
  rw [blockStep_send (s := turned s) hopc hc hpayload hfits] at hstep
  obtain ⟨htx, hchip⟩ := busSend_transacted (c := c) (data := data)
    (eff := namedEffect s.cfg c data (s.env.free + 1)) hready
  exact ⟨_, hstep, htx, hchip, by rw [busSend_ready hready]; simp⟩

/-- A transaction is the one entry the bus sees (R47). -/
theorem Transacted.transactions_eq {s t : State} {c : Cmd} {data : List Byte} (h : Transacted s t c data) :
    transactions t.log.trace = transactions s.log.trace ++ [(c, data)] := by
  obtain ⟨hlog, -⟩ := h
  rw [hlog, transactions_append, transactions_append]
  cases s.drv.hasBusy <;> simp [transactions]

/-! ### SET_SPEED to speed 0 (R142, R176) -/

/-- A supported resolution has a panel byte for every source and mirror (R112). -/
theorem buildPsr_of_resolutionOk {c : Config} {w h : Nat} (hres : resolutionOk c w h = true) (src : LutSrc)
    (mx my : Bool) : ∃ b, buildPsr c w h src mx my = .ok b := by
  simp only [resolutionOk, Bool.and_eq_true] at hres
  obtain ⟨r, hr⟩ := Option.isSome_iff_exists.mp hres.1
  simp only [buildPsr, hr]
  exact ⟨_, rfl⟩

/-- At speed 0 the script of SET_SPEED sends the panel byte and loads no table (R177). -/
theorem setSpeedScript_zero (c : Config) :
    setSpeedScript c 0 = [.send .panelConfig .psr, .clearCount, .ret true] := by
  have hpos : ¬ speedOne c ≤ 0 := Nat.not_le.mpr (Nat.two_pow_pos _)
  simp [setSpeedScript, applyTables, hpos]

theorem opc_wf {c : Config} (h : c.wf = true) : c.opc.wf = true := by
  simp only [Config.wf, Bool.and_eq_true] at h
  obtain ⟨⟨⟨⟨⟨hopc, -⟩, -⟩, -⟩, -⟩, -⟩ := h
  exact hopc

/-- The data of CMD_PANEL_CONFIG is the byte BUILD_PSR gives for the source of SPEED (R112, R177). -/
theorem payload_psr {s : State} {src : LutSrc} {b : Byte} (hsrc : s.drv.source = src)
    (hb : buildPsr s.cfg s.drv.width s.drv.height src s.drv.mirrorX s.drv.mirrorY = .ok b) :
    payload s .psr = .ok [b] := by
  simp only [payload, hsrc, hb]

/-- The panel byte of a source, sent to a ready chip, selects that source (R41, R112). -/
theorem panelConfig_ready {c : Config} (hwf : c.wf = true) {w h : Nat} {src : LutSrc} {mx my : Bool} {b : Byte}
    (hb : buildPsr c w h src mx my = .ok b) (n : Nat) (chip : Chip) :
    (namedEffect c .panelConfig [b] n).ready chip = { chip with lutSrc := .known src } := by
  show (writePsr c b n).ready chip = _
  rw [writePsr_ready, sourceOfPsr_buildPsr (psrSrcBits_ne_zero hwf) hb]
  rfl

/-- A SET_SPEED to speed 0 that has been accepted. -/
def zeroSpeedBegun (s : State) : State :=
  start [.send .panelConfig .psr, .clearCount, .ret true] (latchSpeed (accept (some .setSpeed) s))

theorem exec_setSpeed_zero {s : State} (hrun : s.ctl.running = false) (hinit : s.ctl.inited = true)
    (hspeed : s.regs.argSpeed = 0) : exec .setSpeed s = .next (zeroSpeedBegun s) := by
  rw [exec_setSpeed_accepted hrun hinit, hspeed, setSpeedScript_zero]
  rfl

/-- The end of the script of SET_SPEED: the counter is cleared, then the operation returns (R176). -/
theorem clearCount_ret_runs {s : State} (hidle : s.chip.engine.active = false)
    (htodo : s.ctl.todo = [.clearCount, .ret true]) : Runs 2 s (ret true (turned (doCount 0 (turned s)))) :=
  .cons (step_perform hidle htodo nofun)
    (.one (step_perform (s := doCount 0 (turned s)) hidle (congrArg List.tail htodo) nofun))

/-- Settles O27: the three actions of the script, the panel byte with the internal source first. -/
theorem setSpeedZeroSelectsInternal : Obligations.SetSpeedZeroSelectsInternal := by
  intro s hrun hinit hwf hres hspeed hquiet fr
  obtain ⟨b, hb⟩ := buildPsr_of_resolutionOk hres .internal s.drv.mirrorX s.drv.mirrorY
  have hdata : payload (zeroSpeedBegun s) .psr = .ok [b] := payload_psr (if_pos hspeed) hb
  obtain ⟨v, hstep, htx, hchip, hmem⟩ :=
    step_send (s := zeroSpeedBegun s) (k := 2) (opc_wf hwf) hquiet rfl (by decide) hdata rfl
  replace hchip : v.chip = { s.chip with lutSrc := .known .internal } := hchip.trans (panelConfig_ready hwf hb _ _)
  have htrace := htx.transactions_eq
  obtain ⟨hlog, -, -, hctl, -, -, hregs, hdrv, htabs, hgrey, -⟩ := htx
  have hidle : v.chip.engine.active = false := by rw [hchip]; exact hquiet.1
  have hruns := clearCount_ret_runs hidle (congrArg Control.todo hctl)
  have hseq : v.ctl.seq = s.ctl.seq := by rw [hctl]; rfl
  have hresults : v.log.results ++ [⟨v.ctl.op, true, v.ctl.err, v.ctl.cause⟩] =
      s.log.results ++ [⟨some .setSpeed, true, .none, .none⟩] := by
    rw [hlog, hctl]
    rfl
  have hcleared : { v.drv with updateCount := 0 } = { s.drv with speed := 0, fr := fr, updateCount := 0 } := by
    rw [hdrv, ← hspeed]
    rfl
  exact ⟨_, _, b, exec_setSpeed_zero hrun hinit hspeed, .cons hstep hruns, hb, rfl, rfl, congrArg Control.err hctl, hseq,
    hresults, hcleared, htabs, hchip, htrace, hmem, hregs, hgrey⟩

end Sys2Proof.Machine
end

section
/-!
PROOFS. What one step does to the pins (spec/41_refresh_sequencer.md R173, R174): a transaction frames itself, the RESET_N
action of a script moves that pin alone, and every other part of a step touches no pin and leaves a script that moves
RESET_N in pairs.
-/
namespace Sys2Proof.Machine

/-! ### Scripts that move RESET_N in pairs (R174) -/

/-- The list has no action that moves RESET_N. -/
def NoResetPin (l : List Action) : Prop := ∀ high, .resetPin high ∉ l

/-- An action that does not move RESET_N needs it high. -/
theorem resetPaired_cons {a : Action} {l : List Action} (ha : ∀ high, a ≠ .resetPin high) :
    resetPaired true (a :: l) = resetPaired true l := by
  cases a with
  | resetPin high => exact absurd rfl (ha high)
  | _ => rfl

/-- Actions that do not move RESET_N may come before a paired script. -/
theorem resetPaired_append {l m : List Action} (hl : NoResetPin l) (hm : resetPaired true m = true) :
    resetPaired true (l ++ m) = true := by
  induction l with
  | nil => exact hm
  | cons a l ih =>
    have ha (high : Bool) : a ≠ .resetPin high := fun h => hl high (h ▸ List.mem_cons_self)
    rw [List.cons_append, resetPaired_cons ha]
    exact ih fun high h => hl high (List.mem_cons_of_mem a h)

theorem resetPaired_of_noResetPin {l : List Action} (hl : NoResetPin l) : resetPaired true l = true :=
  List.append_nil l ▸ resetPaired_append hl rfl

/-- A RESET_N action that may come next leaves the pin at the level the rest of the script begins with. -/
theorem resetPaired_of_resetPin {level high : Bool} {l : List Action}
    (h : resetPaired level (.resetPin high :: l) = true) : resetPaired high l = true := by
  cases level <;> cases high
  case false.false => cases h
  all_goals exact h

/-- A script that is over has left RESET_N high. -/
theorem eq_true_of_resetPaired_nil {level : Bool} (h : resetPaired level [] = true) : level = true := h

/-- INIT moves RESET_N as HW_RESET does, and not after that (R174, R175). -/
theorem initScript_paired (c : Config) (q : Nat) : resetPaired true (initScript c q) = true := by
  have htables : NoResetPin (applyTables c q) := by
    unfold applyTables
    split
    · exact (by decide : ∀ high, Action.resetPin high ∉ Action.synth :: loadLuts)
    · simp [NoResetPin]
  have hrest : NoResetPin (.send .panelConfig .psr :: c.initRegs.map (fun e => Action.send (.raw e.1) (.bytes e.2)) ++
      applyTables c q ++ [.clearCount, .setSeq .idle, .setInited, .ret true]) := by
    intro high
    simpa using htables high
  have hafter := resetPaired_of_noResetPin hrest
  exact hafter

theorem setSpeedScript_paired (c : Config) (q : Nat) : resetPaired true (setSpeedScript c q) = true := by
  refine resetPaired_of_noResetPin ?_
  unfold setSpeedScript applyTables
  split
  · exact (by decide : ∀ high, Action.resetPin high ∉
      [.send .panelConfig .psr] ++ (Action.synth :: loadLuts) ++ [.clearCount, .ret true])
  · exact (by decide : ∀ high, Action.resetPin high ∉ [.send .panelConfig .psr] ++ [] ++ [.clearCount, .ret true])

theorem updateScript_paired (inj blocking : Bool) (buf : Space) :
    resetPaired true (updateScript inj blocking buf) = true := by
  cases inj <;> cases blocking <;> rfl

/-! ### The invariant -/

theorem pinsOk_iff (s : State) : pinsOk s = true ↔
    wireAfter s.log.wire = some (.idle s.pins.resetN) ∧ s.pins.cs = false ∧
      resetPaired s.pins.resetN s.ctl.todo = true := by
  simp [pinsOk, and_assoc]

/-- Nothing the framing speaks of has changed. -/
theorem pinsOk_of_same {s t : State} (hs : pinsOk s = true) (hpins : t.pins = s.pins := by simp)
    (hwire : t.log.wire = s.log.wire := by simp) (htodo : t.ctl.todo = s.ctl.todo := by simp) : pinsOk t = true := by
  unfold pinsOk
  rwa [hpins, hwire, htodo]

/-- No pin has been touched, and the script that is left moves RESET_N in pairs, from its high level. -/
structure PinsUntouched (s t : State) : Prop where
  pins   : t.pins = s.pins
  wire   : t.log.wire = s.log.wire
  paired : resetPaired true t.ctl.todo = true

theorem PinsUntouched.pinsOk {s t : State} (h : PinsUntouched s t) (hs : pinsOk s = true)
    (hhigh : s.pins.resetN = true) : pinsOk t = true := by
  obtain ⟨hwire, hcs, -⟩ := (pinsOk_iff s).mp hs
  rw [pinsOk_iff, h.pins, h.wire, hhigh]
  exact ⟨hhigh ▸ hwire, hcs, h.paired⟩

/-! ### The actions of a script -/

/-- A busy poll leaves the script where it is, or ends it (R172). -/
theorem held_todo_cases (s : State) : (held s).ctl.todo = s.ctl.todo ∨ (held s).ctl.todo = [] := by
  rcases held_cases s with ⟨h, -⟩ | ⟨h, -⟩ <;> rw [h]
  · exact .inl rfl
  · exact .inr rfl

/-- A busy poll touches no pin. -/
theorem held_afterIsBusy_pinsUntouched {s : State} (h : resetPaired true s.ctl.todo = true) :
    PinsUntouched s (held (afterIsBusy s)) := by
  refine ⟨by simp, by simp, ?_⟩
  rcases held_todo_cases (afterIsBusy s) with htodo | htodo <;> rw [htodo]
  · simpa using h
  · rfl

/-- The pass loop goes on with actions that leave RESET_N alone (spec/42_greyscale_multiplexer.md R231). -/
theorem doGreyLoop_pinsUntouched {g : Nat} {s : State} (h : resetPaired true s.ctl.todo.tail = true) :
    PinsUntouched s (doGreyLoop g s) := by
  have hpass : NoResetPin (greyPass ++ [.greyLoop (g + 3)]) := by simp [NoResetPin, greyPass, loadLuts, powerOffTail]
  have hskip : NoResetPin ([] ++ [.greyLoop (g + 3)]) := by simp [NoResetPin]
  unfold doGreyLoop
  split
  · dsimp only
    split
    · exact ⟨rfl, rfl, resetPaired_append hpass h⟩
    · exact ⟨rfl, rfl, resetPaired_append hskip h⟩
  · exact ⟨rfl, rfl, h⟩

/-- An action that does not move RESET_N touches no pin. -/
theorem perform_pinsUntouched {a : Action} {rest : List Action} {s : State} (htodo : s.ctl.todo = a :: rest)
    (ha : ∀ high, a ≠ .resetPin high) (hrest : resetPaired true rest = true) : PinsUntouched s (perform a s) := by
  have hall : resetPaired true s.ctl.todo = true := by rw [htodo, resetPaired_cons ha, hrest]
  have htail : resetPaired true s.ctl.todo.tail = true := by rw [htodo]; exact hrest
  have synth (q : Nat) (fr : Bool) : PinsUntouched s (doSynth q fr s) := by
    rcases doSynth_cases q fr s with ⟨t, -, h⟩ | ⟨-, h⟩ | ⟨c, -, h⟩ <;> rw [h]
    · exact ⟨rfl, rfl, htail⟩
    · exact ⟨rfl, rfl, htail⟩
    · exact ⟨rfl, rfl, rfl⟩
  cases a with
  | resetPin high => exact absurd rfl (ha high)
  | send c d => exact ⟨rfl, rfl, hall⟩
  | waitReady =>
    rcases doWaitReady_cases s with ⟨-, h⟩ | ⟨-, h⟩ <;> rw [perform, h]
    · exact held_afterIsBusy_pinsUntouched hall
    · exact ⟨by simp, by simp, by simpa using htail⟩
  | synth => exact synth _ _
  | synthFull => exact synth _ _
  | greyLoop g => exact doGreyLoop_pinsUntouched htail
  | greyTables =>
    rcases doGreyTables_cases s with ⟨t, -, h⟩ | ⟨c, -, h⟩ <;> rw [perform, h]
    · exact ⟨rfl, rfl, htail⟩
    · exact ⟨rfl, rfl, rfl⟩
  | ret v => exact ⟨rfl, rfl, rfl⟩
  | _ => exact ⟨rfl, rfl, htail⟩

/-- The RESET_N action moves its pin, between transactions (R174). -/
theorem doResetPin_pinsOk {high : Bool} {rest : List Action} {s : State} (hs : pinsOk s = true)
    (htodo : s.ctl.todo = .resetPin high :: rest) : pinsOk (doResetPin high s) = true := by
  obtain ⟨hwire, hcs, hpaired⟩ := (pinsOk_iff s).mp hs
  rw [htodo] at hpaired
  have hmoved : wireAfter (s.log.wire ++ [.resetN high]) = some (.idle high) := by
    rw [wireAfter_append hwire]
    rfl
  have hrest : resetPaired high s.ctl.todo.tail = true := by
    rw [htodo]
    exact resetPaired_of_resetPin hpaired
  rw [pinsOk_iff]
  cases high <;> exact ⟨hmoved, hcs, hrest⟩

/-- Every action of a script keeps the framing. -/
theorem perform_pinsOk {a : Action} {rest : List Action} {s : State} (hs : pinsOk s = true)
    (htodo : s.ctl.todo = a :: rest) : pinsOk (perform a s) = true := by
  by_cases ha : ∃ high, a = .resetPin high
  · obtain ⟨high, rfl⟩ := ha
    exact doResetPin_pinsOk hs htodo
  · have ha (high : Bool) : a ≠ .resetPin high := fun h => ha ⟨high, h⟩
    obtain ⟨-, -, hpaired⟩ := (pinsOk_iff s).mp hs
    obtain ⟨hhigh, hrest⟩ := resetPaired_tail (htodo ▸ hpaired) ha
    exact (perform_pinsUntouched htodo ha hrest).pinsOk hs hhigh

/-- A `send` is held, or makes one framed transaction with RESET_N high (R173). -/
theorem busSend_pinsOk {a : Action} {rest : List Action} {s : State} (c : Cmd) (data : List Byte) (eff : ChipEffect)
    (hs : pinsOk s = true) (htodo : s.ctl.todo = a :: rest) (ha : ∀ high, a ≠ .resetPin high) :
    pinsOk (busSend c data eff s) = true := by
  obtain ⟨hwire, -, hpaired⟩ := (pinsOk_iff s).mp hs
  obtain ⟨hhigh, hrest⟩ := resetPaired_tail (htodo ▸ hpaired) ha
  rcases busSend_cases c data eff s with ⟨-, -, h⟩ | ⟨-, chip, -, -, h⟩ <;> rw [h]
  · exact (held_afterIsBusy_pinsUntouched (hhigh ▸ hpaired)).pinsOk hs hhigh
  · rw [hhigh] at hwire
    rw [pinsOk_iff]
    refine ⟨?_, rfl, ?_⟩
    · simpa [hhigh] using wireAfter_pinFrame (s.cfg.opc.byteOf c) data hwire
    · simpa [hhigh, htodo] using hrest

/-- An error in the data of a `send` ends its script, in which RESET_N was high. -/
theorem raise_pinsOk {a : Action} {rest : List Action} {s : State} (e : ErrClass) (c : Cause) (hs : pinsOk s = true)
    (htodo : s.ctl.todo = a :: rest) (ha : ∀ high, a ≠ .resetPin high) : pinsOk (raise e c s) = true := by
  obtain ⟨-, -, hpaired⟩ := (pinsOk_iff s).mp hs
  obtain ⟨hhigh, -⟩ := resetPaired_tail (htodo ▸ hpaired) ha
  have hended : PinsUntouched s (raise e c s) := ⟨rfl, rfl, rfl⟩
  exact hended.pinsOk hs hhigh

/-! ### The host's accesses -/

theorem hostFill_pinsOk {s t : State} {sp : HostSpace} {a : Nat} {b : Byte} (hs : pinsOk s = true)
    (h : hostFill s sp a b = .next t) : pinsOk t = true := by
  rcases hostFill_cases s sp a b with ⟨-, hf⟩ | ⟨-, hf⟩ <;> rw [hf] at h <;> cases h
  exact pinsOk_of_same hs

/-- An operation touches no pin when what it does once accepted does not. -/
theorem hostOp_pinsUntouched {op : HostOp} {body : State → State} (hbody : ∀ s, PinsUntouched s (body s)) {s : State}
    (htodo : s.ctl.todo = []) : PinsUntouched s (hostOp op body s) := by
  rcases hostOp_cases op body s with ⟨-, h⟩ | ⟨-, -, -, h⟩ | ⟨-, -, h⟩ <;> rw [h]
  · exact ⟨rfl, rfl, by rw [htodo]; rfl⟩
  · exact ⟨rfl, rfl, rfl⟩
  · obtain ⟨hpins, hwire, hpaired⟩ := hbody (accept (some op) s)
    exact ⟨hpins, hwire, hpaired⟩

theorem beginUpdate_pinsUntouched (s : State) : PinsUntouched s (beginUpdate s) :=
  ⟨rfl, rfl, updateScript_paired _ _ _⟩

/-- A host code touches no pin; the script it leaves moves RESET_N in pairs (R174). -/
theorem exec_hostOfCode_pinsUntouched {b : Byte} {s t : State} (htodo : s.ctl.todo = [])
    (h : exec (hostOfCode b) s = .next t) : PinsUntouched s t := by
  rcases hostOfCode_cases b with hb | hb | hb | hb | hb | hb | hb | hb <;> rw [hb] at h <;> cases h
  · -- INIT: a check fails, or the script begins
    refine hostOp_pinsUntouched (fun s => ?_) htodo
    split
    · exact ⟨rfl, rfl, rfl⟩
    · split
      · exact ⟨rfl, rfl, rfl⟩
      · exact ⟨rfl, rfl, initScript_paired _ _⟩
  · -- SET_SPEED: the check fails, or the script begins
    refine hostOp_pinsUntouched (fun s => ?_) htodo
    split
    · exact ⟨rfl, rfl, rfl⟩
    · exact ⟨rfl, rfl, setSpeedScript_paired _ _⟩
  · -- UPDATE: a blocking one begins; a non-blocking one samples first
    refine hostOp_pinsUntouched (fun s => ?_) htodo
    split
    · exact beginUpdate_pinsUntouched s
    · split
      · exact ⟨by simp, by simp, rfl⟩
      · obtain ⟨hpins, hwire, hpaired⟩ := beginUpdate_pinsUntouched (afterIsBusy s)
        exact ⟨hpins.trans (afterIsBusy_pins s), hwire.trans (afterIsBusy_wire s), hpaired⟩
  · -- GREY_RENDER: one of its checks fails, or it begins
    refine hostOp_pinsUntouched (fun s => ?_) htodo
    dsimp only
    repeat' split
    all_goals exact ⟨rfl, rfl, rfl⟩
  · -- FADE_OUT
    refine hostOp_pinsUntouched (fun s => ?_) htodo
    exact ⟨rfl, rfl, rfl⟩
  · -- WAIT_OFF
    refine hostOp_pinsUntouched (fun s => ?_) htodo
    exact ⟨rfl, rfl, rfl⟩
  · -- IS_BUSY: one sample
    exact hostOp_pinsUntouched (fun s => ⟨by simp, by simp, rfl⟩) htodo
  · -- a reserved code
    split
    · exact ⟨rfl, rfl, by rw [htodo]; rfl⟩
    · exact ⟨rfl, rfl, rfl⟩

/-- Settles O51: a transaction is framed and RESET_N moves between transactions; where no script is left, the pin is
high for the next one. -/
theorem stepKeepsPinFraming : Obligations.StepKeepsPinFraming := by
  intro s t hs h
  exact step_keeps (P := fun u => pinsOk u = true)
    (hturn := fun _ hu => pinsOk_of_same hu)
    (htaken := fun _ hu => pinsOk_of_same hu)
    (hcmd := fun _ _ hu => pinsOk_of_same hu)
    (hrow := fun _ _ hu => pinsOk_of_same hu)
    (hsend := fun _ _ _ c data eff _ htodo hu => busSend_pinsOk c data eff hu htodo nofun)
    (hraise := fun _ _ _ e _ htodo hu => raise_pinsOk _ e hu htodo nofun)
    (hperform := fun _ _ _ htodo hu => perform_pinsOk hu htodo)
    (hfill := fun _ _ _ _ _ hu hf => hostFill_pinsOk hu hf)
    (hwrite := fun _ _ _ hu => pinsOk_of_same hu)
    (hhost := fun _ _ _ htodo hu he => by
      obtain ⟨-, -, hpaired⟩ := (pinsOk_iff _).mp hu
      exact (exec_hostOfCode_pinsUntouched htodo he).pinsOk hu (eq_true_of_resetPaired_nil (htodo ▸ hpaired)))
    hs h

end Sys2Proof.Machine
end

section
/-!
PROOFS. Operations that end at once or do not begin: a busy poll too many (spec/41_refresh_sequencer.md R172), IS_BUSY
(R189), FADE_OUT (R192), and the host held while an operation runs (R191).
-/
namespace Sys2Proof.Machine

/-! ### HardwareTimeout (R172, spec/60_exceptions.md R262) -/

/-- A busy poll after BUSY_TIMEOUT of them ends the operation (R172). -/
theorem held_afterIsBusy_timedOut {s : State} {n : Nat} (hwire : s.drv.hasBusy = true) (hbusy : busyLevel s = true)
    (htimeout : s.cfg.busyTimeout = some n) (hpolls : n ≤ s.ctl.polls) : TimedOut s (held (afterIsBusy s)) := by
  rw [afterIsBusy_of_wire hwire, hbusy]
  rcases held_cases (logEvent (.sample true) s) with ⟨-, h⟩ | ⟨h, -⟩
  · exact absurd (h n htimeout) (Nat.not_lt.mpr hpolls)
  · rw [h]
    exact ⟨raise_raised _ _ _, rfl, rfl, rfl, rfl, rfl, rfl, rfl, rfl, rfl, rfl, rfl, rfl, rfl, fun _ _ => rfl⟩

/-- Settles O18: the gate and `wait_ready` make the same busy poll, and it is one too many. -/
theorem busyTimeoutRaises : Obligations.BusyTimeoutRaises := by
  intro s n hwire hbusy htimeout hpolls
  have hnow : isBusyNow s = true := by simp [isBusyNow, hwire, hbusy]
  have hended := held_afterIsBusy_timedOut hwire hbusy htimeout hpolls
  refine ⟨fun nb i hi => ?_, ?_⟩
  · obtain ⟨k, data, hd, rfl⟩ := eq_instr_of_wellFormed hi
    exact ⟨_, exec_instr s hd, busSend_of_busy hnow ▸ hended⟩
  · have hwait : perform .waitReady s = held (afterIsBusy s) := if_pos hnow
    exact hwait ▸ hended

/-! ### Operations that return or raise as soon as they are accepted -/

/-- A sample is no transaction (R47). -/
theorem transactions_afterIsBusy (s : State) : transactions (afterIsBusy s).log.trace = transactions s.log.trace := by
  rw [afterIsBusy_trace, transactions_append]
  split <;> exact List.append_nil _

/-- Settles O33: acceptance, one sample, and its value returned. -/
theorem isBusyReturnsSample : Obligations.IsBusyReturnsSample := by
  intro s hrun hinit
  have hexec : exec .isBusy s = .next (ret (isBusyNow s) (afterIsBusy (accept (some .isBusy) s))) :=
    congrArg Host.Outcome.next (hostOp_accepts hrun (.inr hinit))
  refine ⟨_, hexec, rfl, by simp, by simp, rfl, by simp, by simp, by simp, by simp, rfl, rfl, ?_,
    transactions_afterIsBusy _, by simp, by simp, by simp, by simp, by simp, by simp, by simp, by simp, by simp,
    fun sp a => by simp⟩
  simp [isBusyNow]

/-- Settles O34: FADE_OUT raises as soon as it is accepted. -/
theorem fadeOutIsUnspecified : Obligations.FadeOutIsUnspecified := by
  intro s hrun hinit
  have hexec : exec .fadeOut s = .next (raise .unspecified .fadeOut (accept (some .fadeOut) s)) :=
    congrArg Host.Outcome.next (hostOp_accepts hrun (.inr hinit))
  obtain ⟨t, ht, hraised, hlatches⟩ := exec_raises hexec
  exact ⟨t, ht, hraised, hlatches, rfl, rfl⟩

/-! ### The host held (R191) -/

/-- A code written while an operation runs does nothing (R191). -/
theorem hostOp_held {op : HostOp} {body : State → State} {s : State} (h : s.ctl.running = true) :
    hostOp op body s = s := if_pos h

/-- Every host instruction is held while an operation runs. -/
theorem exec_held {c : Config} {i : Instr} {s : State} (hi : wellFormed c .host i = true) (h : s.ctl.running = true) :
    exec i s = .next s := by
  cases i with
  | init | setSpeed | update | greyRender | fadeOut | waitOff | isBusy =>
    exact congrArg Host.Outcome.next (hostOp_held h)
  | hostReserved code => exact congrArg Host.Outcome.next (if_pos h)
  | _ => cases hi

@[simp] theorem busSend_hostIn (c : Cmd) (data : List Byte) (eff : ChipEffect) (s : State) :
    (busSend c data eff s).env.hostIn = s.env.hostIn := by
  rcases busSend_cases c data eff s with ⟨-, -, h⟩ | ⟨-, chip, -, -, h⟩ <;> rw [h] <;> simp

theorem doSynth_env (q : Nat) (fr : Bool) (s : State) : (doSynth q fr s).env = s.env := by
  rcases doSynth_cases q fr s with ⟨t, -, h⟩ | ⟨-, h⟩ | ⟨c, -, h⟩ <;> rw [h] <;> rfl

theorem doGreyLoop_env (g : Nat) (s : State) : (doGreyLoop g s).env = s.env := by
  unfold doGreyLoop
  split
  · dsimp only
    split <;> rfl
  · rfl

/-- An action of a script takes at most free values from the environment (log 13). -/
theorem perform_env (a : Action) (s : State) : (perform a s).env = { s.env with free := (perform a s).env.free } := by
  cases a with
  | waitReady => rcases doWaitReady_cases s with ⟨-, h⟩ | ⟨-, h⟩ <;> rw [perform, h] <;> simp
  | resetPin high => cases high <;> rfl
  | synth => simp [perform, doSynth_env]
  | synthFull => simp [perform, doSynth_env]
  | greyLoop g => simp [perform, doGreyLoop_env]
  | greyTables => rcases doGreyTables_cases s with ⟨t, -, h⟩ | ⟨c, -, h⟩ <;> rw [perform, h] <;> rfl
  | _ => rfl

/-- Settles O38: a code is held, and a step takes an access only when nothing runs. -/
theorem runningOperationHoldsHost : Obligations.RunningOperationHoldsHost := by
  refine ⟨fun s i hi hrun => exec_held hi hrun, fun s t hrun h => ?_⟩
  rcases step_cases h with ⟨-, rfl⟩ | ⟨_, _, _, c, data, eff, -, rfl⟩ | ⟨_, _, _, e, -, rfl⟩ | ⟨a, _, -, -, rfl⟩ |
    rfl | ⟨-, hidle, -⟩
  · exact runRow_hostIn _ (turned s)
  · exact busSend_hostIn c data eff (turned s)
  · rfl
  · rw [perform_env]
    rfl
  · rfl
  · exact absurd (hidle.symm.trans hrun) Bool.false_ne_true

end Sys2Proof.Machine
end

section
/-!
PROOFS. A script followed from action to action on a quiet chip (spec/10_state.md R29, spec/41_refresh_sequencer.md R170 to
R172), and with it a whole WAIT_OFF (R188).
-/
namespace Sys2Proof.Machine

/-! ### The states the steps of a script lead to -/

/-- The sample a quiet machine takes where it has a busy wire (R171). -/
def notBusySample (s : State) : List Event := if s.drv.hasBusy then [.sample false] else []

/-- A sample that said not busy is noted. -/
def sampled (s : State) : State := { s with log := { s.log with trace := s.log.trace ++ notBusySample s } }

theorem afterIsBusy_of_ready {s : State} (h : busyLevel s = false) : afterIsBusy s = sampled s := by
  rw [afterIsBusy_eq, h]
  rfl

/-- A step at `wait_ready` on a quiet chip. -/
def waited (s : State) : State := advance (sampled (turned s))

/-- A step at a `send` on a quiet chip: one transaction, and the effect of its command (R170). -/
def sent (c : Cmd) (data : List Byte) (s : State) : State :=
  advance (takeFree 10 { emit c data (sampled (turned s)) with
    chip := (namedEffect s.cfg c data (s.env.free + 1)).ready s.chip })

/-- On a quiet chip a step at `wait_ready` is over in one poll (R172). -/
theorem step_waited {s : State} {k : Nat} {rest : List Action} (hquiet : Quiet (k + 2) s)
    (htodo : s.ctl.todo = .waitReady :: rest) : step s = .next (waited s) := by
  have hready : busyLevel (turned s) = false := hquiet.turned.ready
  have hnow : ¬ isBusyNow (turned s) = true := by simp [isBusyNow_of_ready hready]
  have hdone : perform .waitReady (turned s) = advance (afterIsBusy (turned s)) := if_neg hnow
  rw [step_perform hquiet.1 htodo nofun, hdone, afterIsBusy_of_ready hready]
  rfl

/-- On a quiet chip a step at a `send` is its transaction (R170). -/
theorem step_sent {s : State} {k : Nat} {c : Cmd} {d : Payload} {data : List Byte} {rest : List Action}
    (hopc : s.cfg.opc.wf = true) (hquiet : Quiet (k + 2) s) (htodo : s.ctl.todo = .send c d :: rest)
    (hc : c ∈ Cmd.named) (hdata : payload s d = .ok data) (hfits : c.fits s.drv.nb data = true) :
    step s = .next (sent c data s) := by
  have hready : busyLevel (turned s) = false := hquiet.turned.ready
  have hpayload : payload (turned s) d = .ok data := hdata
  rw [step_action (by simp [engineTurn, hquiet.1]) htodo,
    blockStep_send (s := turned s) hopc hc hpayload hfits, busSend_ready hready, afterIsBusy_of_ready hready]
  rfl

/-! ### What a script leaves alone -/

/-- No named command but the refresh changes the engine of a ready chip. -/
theorem namedEffect_ready_engine {c : Cmd} (cfg : Config) (data : List Byte) (n : Nat) (chip : Chip)
    (hc : c ∈ Cmd.named) (hrefresh : c ≠ .refresh) :
    ((namedEffect cfg c data n).ready chip).engine = chip.engine := by
  cases c with
  | panelConfig =>
    have hready := writePsr_ready cfg (data.headD 0) n chip
    exact hready ▸ rfl
  | refresh => exact absurd rfl hrefresh
  | raw o => simp [Cmd.named] at hc
  | _ => rfl

theorem Chip.disturb_active (n : Nat) (c : Chip) : (c.disturb n).engine.active = c.engine.active := by
  unfold Chip.disturb
  split <;> rfl

theorem doSynth_chip (q : Nat) (fr : Bool) (s : State) : (doSynth q fr s).chip = s.chip := by
  rcases doSynth_cases q fr s with ⟨t, -, h⟩ | ⟨-, h⟩ | ⟨c, -, h⟩ <;> rw [h] <;> rfl

theorem doGreyLoop_chip (g : Nat) (s : State) : (doGreyLoop g s).chip = s.chip := by
  unfold doGreyLoop
  split
  · dsimp only
    split <;> rfl
  · rfl

/-- No action that is not a `send` starts or ends a refresh. -/
theorem perform_active (a : Action) (s : State) : (perform a s).chip.engine.active = s.chip.engine.active := by
  cases a with
  | waitReady => rcases doWaitReady_cases s with ⟨-, h⟩ | ⟨-, h⟩ <;> rw [perform, h] <;> simp
  | resetPin high =>
    cases high with
    | true => rfl
    | false => exact Chip.disturb_active _ s.chip
  | synth => exact congrArg (·.engine.active) (doSynth_chip _ _ s)
  | synthFull => exact congrArg (·.engine.active) (doSynth_chip _ _ s)
  | greyLoop g => exact congrArg (·.engine.active) (doGreyLoop_chip g s)
  | greyTables => rcases doGreyTables_cases s with ⟨t, -, h⟩ | ⟨c, -, h⟩ <;> rw [perform, h] <;> rfl
  | _ => rfl

/-! ### Scripts followed on a quiet chip -/

/-- `n` steps lead from `s` to `t`, where the block is at `l` of its script; no refresh runs, the next `k` samples say not
busy, and no turn has been used up. -/
structure Reaches (s : State) (n k : Nat) (l : List Action) (t : State) : Prop where
  runs  : Runs n s t
  quiet : Quiet k t
  todo  : t.ctl.todo = l
  turns : t.env.turnFeed = s.env.turnFeed

theorem Reaches.start {s : State} {k : Nat} {l : List Action} (hquiet : Quiet k s) (htodo : s.ctl.todo = l) :
    Reaches s 0 k l s := ⟨Runs.zero s, hquiet, htodo, rfl⟩

/-- A step that leaves the chip without a refresh and takes from the environment what every step does. -/
theorem Reaches.step {s t u : State} {n k : Nat} {l m : List Action} (h : Reaches s n (k + 1) l t)
    (hstep : Machine.step t = .next u) (htodo : u.ctl.todo = m)
    (hactive : u.chip.engine.active = t.chip.engine.active)
    (henv : u.env = { (turned t).env with free := u.env.free }) : Reaches s (n + 1) k m u := by
  obtain ⟨hidle, hfeed⟩ := h.quiet.turned
  have hturns : (turned t).env.turnFeed = t.env.turnFeed := if_neg (by simp [h.quiet.1])
  refine ⟨h.runs.append (.one hstep), ⟨hactive.trans hidle, ?_⟩, htodo, ?_⟩ <;> rw [henv]
  · exact hfeed
  · exact hturns.trans h.turns

/-- A step at an action that neither sends nor samples. -/
theorem Reaches.perform {s t : State} {n k : Nat} {a : Action} {l : List Action} (h : Reaches s n (k + 1) (a :: l) t)
    (ha : ∀ c d, a ≠ .send c d := by nofun)
    (htodo : (Machine.perform a (turned t)).ctl.todo = t.ctl.todo.tail := by rfl) :
    Reaches s (n + 1) k l (Machine.perform a (turned t)) :=
  h.step (step_perform h.quiet.1 h.todo ha) (htodo.trans (by rw [h.todo]; rfl)) (perform_active a (turned t))
    (perform_env a (turned t))

/-- A step at `wait_ready`. -/
theorem Reaches.wait {s t : State} {n k : Nat} {l : List Action} (h : Reaches s n (k + 2) (.waitReady :: l) t) :
    Reaches s (n + 1) (k + 1) l (waited t) :=
  h.step (step_waited h.quiet h.todo) (congrArg List.tail h.todo) rfl rfl

/-- A step at a `send` of a command that starts no refresh. -/
theorem Reaches.send {s t : State} {n k : Nat} {c : Cmd} {d : Payload} {data : List Byte} {l : List Action}
    (h : Reaches s n (k + 2) (.send c d :: l) t) (hopc : t.cfg.opc.wf = true) (hdata : payload t d = .ok data)
    (hfits : c.fits t.drv.nb data = true) (hc : c ∈ Cmd.named := by decide) (hrefresh : c ≠ .refresh := by decide) :
    Reaches s (n + 1) (k + 1) l (sent c data t) :=
  h.step (step_sent hopc h.quiet h.todo hc hdata hfits) (congrArg List.tail h.todo)
    (congrArg Engine.active (namedEffect_ready_engine t.cfg data (t.env.free + 1) t.chip hc hrefresh)) rfl

/-- The step at the return (R30). -/
theorem Reaches.ret {s t : State} {n k : Nat} {v : Bool} (h : Reaches s n k [.ret v] t) :
    Runs (n + 1) s (Machine.ret v (turned t)) :=
  h.runs.append (.one (step_perform h.quiet.1 h.todo nofun))

/-- The registers and the memory of the block are the same, the operation in progress and the flags too, and no operation
has come to an end. -/
structure Kept (s t : State) : Prop where
  cfg     : t.cfg = s.cfg
  regs    : t.regs = s.regs
  drv     : t.drv = s.drv
  tabs    : t.tabs = s.tabs
  grey    : t.grey = s.grey
  mem     : t.mem = s.mem
  op      : t.ctl.op = s.ctl.op
  err     : t.ctl.err = s.ctl.err
  cause   : t.ctl.cause = s.ctl.cause
  inited  : t.ctl.inited = s.ctl.inited
  inj     : t.ctl.inj = s.ctl.inj
  any     : t.ctl.any = s.ctl.any
  results : t.log.results = s.log.results

theorem Kept.trans {s t u : State} (h : Kept s t) (k : Kept t u) : Kept s u :=
  ⟨k.cfg.trans h.cfg, k.regs.trans h.regs, k.drv.trans h.drv, k.tabs.trans h.tabs, k.grey.trans h.grey,
    k.mem.trans h.mem, k.op.trans h.op, k.err.trans h.err, k.cause.trans h.cause, k.inited.trans h.inited,
    k.inj.trans h.inj, k.any.trans h.any, k.results.trans h.results⟩

theorem waited_kept (s : State) : Kept s (waited s) := by constructor <;> rfl

theorem sent_kept (c : Cmd) (data : List Byte) (s : State) : Kept s (sent c data s) := by constructor <;> rfl

theorem setSeq_kept (q : Seq) (s : State) : Kept s (perform (.setSeq q) (turned s)) := by constructor <;> rfl

/-! ### What the outside sees of it (R47) -/

theorem transactions_sampled (s : State) : transactions (sampled s).log.trace = transactions s.log.trace := by
  have hnone : transactions (notBusySample s) = [] := by
    unfold notBusySample
    split <;> rfl
  exact (transactions_append _ _).trans (by rw [hnone, List.append_nil])

/-- A `send` adds its transaction. -/
theorem transactions_sent (c : Cmd) (data : List Byte) (s : State) :
    transactions (sent c data s).log.trace = transactions s.log.trace ++ [(c, data)] :=
  (transactions_append _ _).trans (congrArg (· ++ [(c, data)]) (transactions_sampled (turned s)))

/-- A sample is not observed. -/
theorem observe_trace_sampled (s : State) : (observe (sampled s)).trace = (observe s).trace := by
  have hsplit : (observe (sampled s)).trace = (observe s).trace ++ _ := List.filter_append s.log.trace (notBusySample s)
  rw [hsplit, notBusySample]
  split <;> exact List.append_nil _

/-- A `send` is observed as its transaction. -/
theorem observe_trace_sent (c : Cmd) (data : List Byte) (s : State) :
    (observe (sent c data s)).trace = (observe s).trace ++ [.tx s.drv.hasBusy c data] :=
  (List.filter_append (sampled (turned s)).log.trace [.tx s.drv.hasBusy c data]).trans
    (congrArg (· ++ [Event.tx s.drv.hasBusy c data]) (observe_trace_sampled (turned s)))

/-! ### WAIT_OFF (R188) -/

/-- The state in which the power-off tail leaves a quiet chip (R185, R188). -/
def poweredOff (s : State) : State :=
  doSetSeq .idle (turned (sent .powerOff []
    (doSetSeq .poweringOff (turned (doSetSeq .poweredOn (turned (waited s)))))))

theorem poweredOff_kept (s : State) : Kept s (poweredOff s) :=
  ((((waited_kept s).trans (setSeq_kept .poweredOn _)).trans (setSeq_kept .poweringOff _)).trans
    (sent_kept .powerOff [] _)).trans (setSeq_kept .idle _)

/-- The tail makes one transaction. -/
theorem transactions_poweredOff (s : State) :
    transactions (poweredOff s).log.trace = transactions s.log.trace ++ [(.powerOff, [])] :=
  (transactions_sent .powerOff [] _).trans
    (congrArg (· ++ [(Cmd.powerOff, ([] : List Byte))]) (transactions_sampled (turned s)))

/-- The tail leaves SEQ idle and the chip off. -/
theorem Reaches.powerOff {s t : State} {n k : Nat} {l : List Action} (h : Reaches s n (k + 6) (powerOffTail ++ l) t)
    (hopc : t.cfg.opc.wf = true) :
    ∃ u, Reaches s (n + 5) (k + 1) l u ∧ Kept t u ∧ u.ctl.seq = .idle ∧
      u.chip = { t.chip with powered := .known false } ∧
      transactions u.log.trace = transactions t.log.trace ++ [(.powerOff, [])] :=
  ⟨poweredOff t, (h.wait.perform.perform.send hopc rfl rfl).perform, poweredOff_kept t, rfl, rfl,
    transactions_poweredOff t⟩

/-- What an operation leaves when it returns after a script that has kept the block (R30). -/
theorem Kept.results_ret {s t : State} (h : Kept s t) (v : Bool) :
    (ret v (turned t)).log.results = s.log.results ++ [⟨s.ctl.op, v, s.ctl.err, s.ctl.cause⟩] := by
  have hdef : (ret v (turned t)).log.results = t.log.results ++ [⟨t.ctl.op, v, t.ctl.err, t.ctl.cause⟩] := rfl
  rw [hdef, h.results, h.op, h.err, h.cause]

/-- A WAIT_OFF that has been accepted. -/
def waitOffBegun (s : State) : State := Machine.start waitOffScript (accept (some .waitOff) s)

/-- Settles O32: the power-off tail, then the return. -/
theorem waitOffPowersOff : Obligations.WaitOffPowersOff := by
  intro s hrun hinit hopc hquiet
  have hexec : exec .waitOff s = .next (waitOffBegun s) := congrArg Host.Outcome.next (hostOp_accepts hrun (.inr hinit))
  have hbegun : Reaches (waitOffBegun s) 0 7 (powerOffTail ++ [.ret true]) (waitOffBegun s) := .start hquiet rfl
  obtain ⟨t, hreach, hkept, hseq, hchip, htx⟩ := hbegun.powerOff hopc
  exact ⟨_, _, hexec, hreach.ret, rfl, rfl, hkept.err, hseq, hkept.results_ret true, hchip, htx,
    hkept.drv, hkept.mem, hkept.regs, hkept.tabs, hkept.grey⟩

end Sys2Proof.Machine
end

section
/-!
PROOFS. INIT and SET_SPEED (spec/41_refresh_sequencer.md R174 to R177): what INIT latches and the script it begins, and
both operations followed to their return at the speeds that load tables.
-/
namespace Sys2Proof.Machine

/-! ### INIT begins (R175) -/

theorem speedOk_of_legal {c : Config} {q : Nat} (h : q = 0 ∨ (2 ^ c.fracBits ≤ q ∧ q ≤ 6 * 2 ^ c.fracBits)) :
    speedOk c q = true := by
  by_contra hbad
  obtain ⟨hzero, hrange⟩ := (speedOk_eq_false_iff c q).mp (Bool.eq_false_of_not_eq_true hbad)
  omega

/-- An INIT whose checks pass latches the configuration and begins its script (R175). -/
theorem exec_init_begins {s : State} (hrun : s.ctl.running = false)
    (hres : resolutionOk s.cfg s.regs.cfgWidth.toNat s.regs.cfgHeight.toNat = true)
    (hspeed : s.regs.argSpeed = 0 ∨ (2 ^ s.cfg.fracBits ≤ s.regs.argSpeed ∧ s.regs.argSpeed ≤ 6 * 2 ^ s.cfg.fracBits)) :
    exec .init s = .next (start (initScript s.cfg s.regs.argSpeed) (latchConfig (accept (some .init) s))) := by
  rw [exec_init_accepted hrun, hres, speedOk_of_legal hspeed]
  rfl

/-- Of the legal speeds 0 loads no tables (R177). -/
theorem applyTables_of_legal {c : Config} {q : Nat} (h : q = 0 ∨ (2 ^ c.fracBits ≤ q ∧ q ≤ 6 * 2 ^ c.fracBits)) :
    applyTables c q = if q = 0 then [] else .synth :: loadLuts := by
  have hone : 0 < 2 ^ c.fracBits := Nat.two_pow_pos _
  have hdef : applyTables c q = if 2 ^ c.fracBits ≤ q then .synth :: loadLuts else [] := rfl
  rw [hdef]
  by_cases hq : q = 0
  · rw [if_pos hq, if_neg (by omega)]
  · rw [if_neg hq, if_pos (by omega)]

/-- Settles O24: both checks pass, so the configuration is latched and the script begins. -/
theorem initLatchesConfiguration : Obligations.InitLatchesConfiguration := by
  intro s hrun hres hspeed
  refine ⟨_, exec_init_begins hrun hres hspeed, rfl, rfl, rfl, rfl, rfl, ?_, rfl, rfl, rfl, rfl, rfl, rfl, rfl, rfl, rfl,
    rfl, fun _ _ => rfl, rfl, rfl, rfl⟩
  rw [start_ctl_todo, initScript, applyTables_of_legal hspeed]
  rfl

/-! ### The panel byte and the tables (R112, R143, R177) -/

theorem sized_iff (t : Tables) : t.sized = true ↔
    t.vcom.length = 44 ∧ t.ww.length = 42 ∧ t.wb.length = 42 ∧ t.bb.length = 42 ∧ t.bw.length = 42 := by
  simp [Tables.sized, and_assoc]

/-- The state in which LOAD_LUTS leaves a quiet chip (R143). -/
def loaded (s : State) : State :=
  sent .lutBw s.tabs.bw (sent .lutBb s.tabs.bb (sent .lutWb s.tabs.wb (sent .lutWw s.tabs.ww
    (sent .lutVcom s.tabs.vcom s))))

/-- The transactions of LOAD_LUTS (R143). -/
def lutLoads (t : Tables) : List (Cmd × List Byte) :=
  [(.lutVcom, t.vcom), (.lutWw, t.ww), (.lutWb, t.wb), (.lutBb, t.bb), (.lutBw, t.bw)]

/-- The table registers of a chip that has been loaded with these tables (R41). -/
def Tables.inChip (t : Tables) : ChipTables :=
  { vcom := .known t.vcom, ww := .known t.ww, wb := .known t.wb, bb := .known t.bb, bw := .known t.bw }

theorem observe_trace_loaded (s : State) : (observe (loaded s)).trace =
    (observe s).trace ++ (lutLoads s.tabs).map fun e => .tx s.drv.hasBusy e.1 e.2 := by
  simp only [loaded, observe_trace_sent, List.append_assoc]
  rfl

/-- LOAD_LUTS puts the table buffers in the chip. -/
theorem Reaches.loadLuts {s t : State} {n k : Nat} {l : List Action}
    (h : Reaches s n (k + 6) (Machine.loadLuts ++ l) t) (hopc : t.cfg.opc.wf = true) (hsized : t.tabs.sized = true) :
    ∃ u, Reaches s (n + 5) (k + 1) l u ∧ Kept t u ∧ u.ctl.seq = t.ctl.seq ∧
      u.chip = { t.chip with tables := t.tabs.inChip } ∧
      (observe u).trace = (observe t).trace ++ (lutLoads t.tabs).map fun e => .tx t.drv.hasBusy e.1 e.2 := by
  obtain ⟨hvcom, hww, hwb, hbb, hbw⟩ := (sized_iff _).mp hsized
  have hfits {c : Cmd} {nb m : Nat} {data : List Byte} (hc : c.dataLength nb = some m) (hdata : data.length = m) :
      c.fits nb data = true := by simp [Cmd.fits, hc, hdata]
  have hreach := ((((h.send hopc rfl (hfits rfl hvcom)).send hopc rfl (hfits rfl hww)).send hopc rfl
    (hfits rfl hwb)).send hopc rfl (hfits rfl hbb)).send hopc rfl (hfits rfl hbw)
  have hkept : Kept t (loaded t) := ((((sent_kept _ _ t).trans (sent_kept _ _ _)).trans (sent_kept _ _ _)).trans
    (sent_kept _ _ _)).trans (sent_kept _ _ _)
  exact ⟨loaded t, hreach, hkept, rfl, rfl, observe_trace_loaded t⟩

/-- A step at a synthesis that fills the table buffers. -/
def synthesized (s : State) : State :=
  { turned s with tabs := synthTables s.cfg s.drv.speed s.drv.fr, ctl := s.ctl.next }

/-- A step at a synthesis at a legal speed of at least 1 (R141). -/
theorem Reaches.synth {s t : State} {n k : Nat} {l : List Action} (h : Reaches s n (k + 1) (.synth :: l) t)
    (hlo : 2 ^ t.cfg.fracBits ≤ t.drv.speed) (hhi : t.drv.speed ≤ 6 * 2 ^ t.cfg.fracBits) :
    Reaches s (n + 1) k l (synthesized t) := by
  have hfilled : Machine.perform .synth (turned t) = synthesized t := by
    have htabs := synthesize_eq hlo hhi t.drv.fr
    simp only [Machine.perform, doSynth, turned_cfg, turned_drv, htabs]
    rfl
  exact hfilled ▸ h.perform nofun (by rw [hfilled]; rfl)

/-- The panel byte of a source selects that source in the chip (R41, R112, R177). -/
theorem Reaches.panel {s t : State} {n k : Nat} {l : List Action} {src : LutSrc} {b : Byte}
    (h : Reaches s n (k + 2) (.send .panelConfig .psr :: l) t) (hwf : t.cfg.wf = true) (hsrc : t.drv.source = src)
    (hb : buildPsr t.cfg t.drv.width t.drv.height src t.drv.mirrorX t.drv.mirrorY = .ok b) :
    ∃ u, Reaches s (n + 1) (k + 1) l u ∧ Kept t u ∧ u.ctl.seq = t.ctl.seq ∧
      u.chip = { t.chip with lutSrc := .known src } ∧
      (observe u).trace = (observe t).trace ++ [.tx t.drv.hasBusy .panelConfig [b]] :=
  ⟨_, h.send (opc_wf hwf) (payload_psr hsrc hb) rfl, sent_kept _ _ t, rfl, panelConfig_ready hwf hb _ _,
    observe_trace_sent _ _ t⟩

/-- The panel byte and the tables at a speed of at least 1: the chip has the synthesized tables and uses them (R143,
R177). -/
theorem Reaches.panelAndTables {s t : State} {n k : Nat} {l : List Action} {c : Config} {d : Driver} {b : Byte}
    (h : Reaches s n (k + 8) (.send .panelConfig .psr :: .synth :: Machine.loadLuts ++ l) t) (hcfg : t.cfg = c)
    (hdrv : t.drv = d) (hwf : c.wf = true) (hb : buildPsr c d.width d.height .programmed d.mirrorX d.mirrorY = .ok b)
    (hlo : 2 ^ c.fracBits ≤ d.speed) (hhi : d.speed ≤ 6 * 2 ^ c.fracBits) :
    let tabs := synthTables c d.speed d.fr
    ∃ u, Reaches s (n + 7) (k + 1) l u ∧ Kept { t with tabs := tabs } u ∧ u.ctl.seq = t.ctl.seq ∧
      u.chip = { t.chip with lutSrc := .known .programmed, tables := tabs.inChip } ∧
      (observe u).trace = (observe t).trace ++
        ((.panelConfig, [b]) :: lutLoads tabs).map fun e => .tx d.hasBusy e.1 e.2 := by
  subst hcfg hdrv
  intro tabs
  have hnonzero : t.drv.speed ≠ 0 := (Nat.lt_of_lt_of_le (Nat.two_pow_pos _) hlo).ne'
  obtain ⟨v, hpanel, hkeptv, hseqv, hchipv, htracev⟩ := h.panel hwf (if_neg hnonzero) hb
  have htabs : (synthesized v).tabs = tabs := by simp only [synthesized, hkeptv.cfg, hkeptv.drv, tabs]
  have hsynth : Kept { t with tabs := tabs } (synthesized v) := { hkeptv with tabs := htabs }
  obtain ⟨u, hreach, hkept, hseq, hchip, htrace⟩ :=
    (hpanel.synth (by rwa [hkeptv.cfg, hkeptv.drv]) (by rwa [hkeptv.cfg, hkeptv.drv])).loadLuts
      (by rw [hsynth.cfg]; exact opc_wf hwf) (by rw [htabs]; exact synthesize_sized (synthesize_eq hlo hhi _))
  refine ⟨u, hreach, hsynth.trans hkept, hseq.trans hseqv, ?_, ?_⟩
  · have hv : (synthesized v).chip = { t.chip with lutSrc := .known .programmed } := hchipv
    rw [hchip, hv, htabs]
  · have hv : (observe (synthesized v)).trace = (observe t).trace ++ [.tx t.drv.hasBusy .panelConfig [b]] := htracev
    rw [htrace, hv, htabs, hsynth.drv, List.append_assoc]
    rfl

/-- What is seen of transactions is what the bus sees of them (R47). -/
theorem transactions_of_observe {s t : State} {g : Bool} {l : List (Cmd × List Byte)}
    (h : (observe t).trace = (observe s).trace ++ l.map fun e => .tx g e.1 e.2) :
    transactions t.log.trace = transactions s.log.trace ++ l := by
  have hobs (u : State) : transactions u.log.trace = transactions (observe u).trace := by
    simp only [transactions, observe, List.filterMap_filter]
    congr 1
    funext e
    cases e <;> rfl
  have htx : transactions (l.map fun e => .tx g e.1 e.2) = l := by
    simp [transactions, List.filterMap_map]
  rw [hobs, h, transactions_append, htx, ← hobs]

/-! ### The last actions (R175, R176) -/

/-- The counter alone is written (R23). -/
theorem Kept.count {s t : State} (h : Kept s t) (n : Nat) :
    Kept { s with drv := { s.drv with updateCount := n } } (doCount n (turned t)) :=
  { h with drv := congrArg ({ · with updateCount := n }) h.drv }

theorem Kept.withTabs {s t : State} (h : Kept s t) (tabs : Tables) :
    Kept { s with tabs := tabs } { t with tabs := tabs } := { h with tabs := rfl }

/-- INITED is set, and the transient flags are cleared (R300). -/
theorem Kept.setInited {s t : State} (h : Kept s t) :
    Kept { s with ctl := { s.ctl with inited := true, inj := false, any := false } } (doSetInited (turned t)) :=
  { h with inited := rfl, inj := rfl, any := rfl }

/-! ### SET_SPEED (R176) -/

/-- A SET_SPEED to a speed of at least 1 that has been accepted. -/
def speedBegun (s : State) : State :=
  start (.send .panelConfig .psr :: .synth :: loadLuts ++ [.clearCount, .ret true])
    (latchSpeed (accept (some .setSpeed) s))

/-- Its script is that of SET_SPEED with the tables (R176). -/
theorem exec_setSpeed_programmed {s : State} (hrun : s.ctl.running = false) (hinit : s.ctl.inited = true)
    (hlo : 2 ^ s.cfg.fracBits ≤ s.regs.argSpeed) (hhi : s.regs.argSpeed ≤ 6 * 2 ^ s.cfg.fracBits) :
    exec .setSpeed s = .next (speedBegun s) := by
  have htables : applyTables s.cfg s.regs.argSpeed = .synth :: loadLuts := if_pos hlo
  rw [exec_setSpeed_accepted hrun hinit, speedOk_of_legal (.inr ⟨hlo, hhi⟩), setSpeedScript, htables]
  rfl

/-- Settles O26: the panel byte and the tables, the counter, the return. -/
theorem setSpeedLoadsTables : Obligations.SetSpeedLoadsTables := by
  intro s hrun hinit hwf hres hlo hhi hquiet fr
  obtain ⟨b, hb⟩ := buildPsr_of_resolutionOk hres .programmed s.drv.mirrorX s.drv.mirrorY
  have hbegun : Reaches (speedBegun s) 0 10
      (.send .panelConfig .psr :: .synth :: loadLuts ++ [.clearCount, .ret true]) (speedBegun s) := .start hquiet rfl
  obtain ⟨t, hreach, hkept, hseq, hchip, htrace⟩ := hbegun.panelAndTables rfl rfl hwf hb hlo hhi
  have hcleared := hkept.count 0
  exact ⟨_, _, _, b, exec_setSpeed_programmed hrun hinit hlo hhi, hreach.perform.ret, synthesize_eq hlo hhi fr, hb, rfl,
    rfl, hcleared.err, hseq, hcleared.results_ret true, hcleared.drv, hcleared.tabs, hchip,
    hcleared.inited.trans hinit, transactions_of_observe htrace, hcleared.mem, hcleared.regs,
    hcleared.grey⟩

/-! ### INIT (R174, R175) -/

/-- HW_RESET performed on a quiet chip (R174). -/
def resetDone (s : State) : State := waited (doResetPin true (turned (doResetPin false (turned s))))

theorem doResetPin_kept (high : Bool) (s : State) : Kept s (doResetPin high (turned s)) := by
  cases high <;> constructor <;> rfl

theorem resetDone_kept (s : State) : Kept s (resetDone s) :=
  ((doResetPin_kept false s).trans (doResetPin_kept true _)).trans (waited_kept _)

/-- The two edges of HW_RESET are seen (R47, R174). -/
theorem observe_trace_resetDone (s : State) : (observe (resetDone s)).trace =
    (observe s).trace ++ [.resetEdge false 10, .resetEdge true 10] := by
  have hedges : (observe (doResetPin true (turned (doResetPin false (turned s))))).trace =
      (observe s).trace ++ [.resetEdge false 10, .resetEdge true 10] := by
    simp [observe, doResetPin]
  exact (observe_trace_sampled _).trans hedges

/-- HW_RESET resets the chip and waits for it (R174, R301). -/
theorem Reaches.hwReset {s t : State} {n k : Nat} {l : List Action} (h : Reaches s n (k + 4) (Machine.hwReset ++ l) t) :
    ∃ u, Reaches s (n + 3) (k + 1) l u ∧ Kept t u ∧ u.ctl.seq = t.ctl.seq ∧
      u.chip = t.chip.hardReset t.env.free ∧
      (observe u).trace = (observe t).trace ++ [.resetEdge false 10, .resetEdge true 10] :=
  ⟨resetDone t, h.perform.perform.wait, resetDone_kept t, rfl, rfl, observe_trace_resetDone t⟩

/-- The end of INIT before its return: counter, SEQ, INITED (R175, R300). -/
theorem Reaches.initEnd {r s t : State} {n k : Nat} {l : List Action}
    (h : Reaches s n (k + 3) (.clearCount :: .setSeq .idle :: .setInited :: l) t) (hkept : Kept r t) :
    ∃ u, Reaches s (n + 3) k l u ∧
      Kept { r with drv := { r.drv with updateCount := 0 }
                    ctl := { r.ctl with inited := true, inj := false, any := false } } u ∧
      u.ctl.seq = .idle ∧ u.chip = t.chip ∧ (observe u).trace = (observe t).trace :=
  ⟨_, h.perform.perform.perform, ((hkept.count 0).trans (setSeq_kept .idle _)).setInited, rfl, rfl, rfl⟩

/-- An INIT to a speed of at least 1 with no further register writes that has been accepted. -/
def initBegun (s : State) : State :=
  start (hwReset ++ (.send .panelConfig .psr :: .synth :: loadLuts ++ [.clearCount, .setSeq .idle, .setInited, .ret true]))
    (latchConfig (accept (some .init) s))

/-- Its script is that of INIT with the tables and no entry of INIT_REGS (R175). -/
theorem exec_init_programmed {s : State} (hrun : s.ctl.running = false) (hregs : s.cfg.initRegs = [])
    (hres : resolutionOk s.cfg s.regs.cfgWidth.toNat s.regs.cfgHeight.toNat = true)
    (hlo : 2 ^ s.cfg.fracBits ≤ s.regs.argSpeed) (hhi : s.regs.argSpeed ≤ 6 * 2 ^ s.cfg.fracBits) :
    exec .init s = .next (initBegun s) := by
  have htables : applyTables s.cfg s.regs.argSpeed = .synth :: loadLuts := if_pos hlo
  rw [exec_init_begins hrun hres (.inr ⟨hlo, hhi⟩), initScript, htables, hregs]
  rfl

/-- Settles O25: the reset, the panel byte and the tables, then counter, SEQ and INITED, and the return. -/
theorem initRunsToReturn : Obligations.InitRunsToReturn := by
  intro s hrun _ hwf hregs hres hlo hhi hquiet
  obtain ⟨b, hb⟩ := buildPsr_of_resolutionOk hres .programmed (s.regs.cfgFlags.getLsbD 0) (s.regs.cfgFlags.getLsbD 1)
  have hbegun : Reaches (initBegun s) 0 15 _ (initBegun s) := .start hquiet rfl
  obtain ⟨t, hreset, hkeptt, -, hchipt, htracet⟩ := hbegun.hwReset
  obtain ⟨u, hreach, hkeptu, -, hchip, htraceu⟩ :=
    hreset.panelAndTables (c := s.cfg) (d := (initBegun s).drv) hkeptt.cfg hkeptt.drv hwf hb hlo hhi
  obtain ⟨v, hend, hdone, hseq, hchipv, htracev⟩ := hreach.initEnd ((hkeptt.withTabs _).trans hkeptu)
  have hdrv := hdone.drv
  rw [hchip, hchipt] at hchipv
  have htrace := htracev.trans (htraceu.trans (congrArg (· ++ _) htracet))
  exact ⟨_, _, _, b, exec_init_programmed hrun hregs hres hlo hhi, hend.ret, synthesize_eq hlo hhi _, hb, rfl, rfl,
    hdone.err, hdone.inited, hseq, hdone.inj, hdone.any, hdone.results_ret true, congrArg Driver.updateCount hdrv,
    congrArg Driver.speed hdrv, congrArg Driver.fr hdrv, congrArg Driver.fullPeriod hdrv, congrArg Driver.mirrorX hdrv,
    congrArg Driver.mirrorY hdrv, congrArg Driver.hasBusy hdrv, congrArg Driver.width hdrv, congrArg Driver.height hdrv,
    hdone.tabs, congrArg Chip.lutSrc hchipv, congrArg Chip.tables hchipv, congrArg Chip.powered hchipv,
    congrArg (·.prev.loose.isSome) hchipv, congrArg (·.cur.loose.isSome) hchipv,
    congrArg (·.partialMode.loose.isSome) hchipv, htrace, hdone.mem, hdone.regs, hdone.grey⟩

end Sys2Proof.Machine
end

section
/-!
PROOFS. Whole UPDATEs that do not inject (spec/41_refresh_sequencer.md R178, R182, R184 to R186): the transfer up to the
refresh command, the block's turns while the refresh runs, and the refresh run out before the block goes on.
-/
namespace Sys2Proof.Machine

/-! ### The transfer (R182) -/

theorem Memory.walk_length (m : Memory) (a n : Nat) : (m.walk a n).length = n := by
  induction n generalizing m a with
  | zero => cases m <;> rfl
  | succ n ih =>
    cases m with
    | nil => simp [Memory.walk, ih]
    | cons e m =>
      unfold Memory.walk
      split <;> simp [ih]

/-- A pixel buffer is read whole (R9, R69). -/
theorem Memory.readRange_length (m : Memory) (a n : Nat) : (m.readRange a n).length = n := Memory.walk_length _ a n

/-- The state in which the beginning of a transfer leaves a quiet chip. -/
def poweredUp (s : State) : State :=
  sent .partialOut [] (doSetSeq .transferring (turned (sent .powerOn [] (doSetSeq .powering (turned s)))))

theorem poweredUp_kept (s : State) : Kept s (poweredUp s) :=
  (((setSeq_kept .powering s).trans (sent_kept .powerOn [] _)).trans (setSeq_kept .transferring _)).trans
    (sent_kept .partialOut [] _)

theorem transactions_poweredUp (s : State) : transactions (poweredUp s).log.trace =
    transactions s.log.trace ++ [(.powerOn, []), (.partialOut, [])] := by
  have hon : transactions (doSetSeq .transferring (turned (sent .powerOn [] (doSetSeq .powering (turned s))))).log.trace =
      transactions s.log.trace ++ [(.powerOn, [])] := transactions_sent .powerOn [] (doSetSeq .powering (turned s))
  rw [poweredUp, transactions_sent, hon, List.append_assoc]
  rfl

/-- A transfer begins with power on, and the partial mode off. -/
theorem Reaches.powerUp {s t : State} {n k : Nat} {l : List Action}
    (h : Reaches s n (k + 5) (.setSeq .powering :: .send .powerOn (.bytes []) :: .setSeq .transferring ::
      .send .partialOut (.bytes []) :: l) t) (hopc : t.cfg.opc.wf = true) :
    ∃ u, Reaches s (n + 4) (k + 1) l u ∧ Kept t u ∧
      u.chip = { t.chip with powered := .known true, partialMode := .known false } ∧
      transactions u.log.trace = transactions t.log.trace ++ [(.powerOn, []), (.partialOut, [])] :=
  ⟨poweredUp t, (h.perform.send hopc rfl rfl).perform.send hopc rfl rfl, poweredUp_kept t, rfl,
    transactions_poweredUp t⟩

/-- The buffer goes to the current slot of the chip. -/
theorem Reaches.sendCurrent {s t : State} {n k : Nat} {l : List Action} {buf : Space} {data : List Byte}
    (h : Reaches s n (k + 3) (.send .dataCurrent (.buffer buf) :: .send .dataStop (.bytes []) :: l) t)
    (hopc : t.cfg.opc.wf = true) (hdata : (t.mem.get buf).readRange 0 t.drv.nb = data) :
    ∃ u, Reaches s (n + 2) (k + 1) l u ∧ Kept t u ∧ u.chip = { t.chip with cur := .known data } ∧
      transactions u.log.trace = transactions t.log.trace ++ [(.dataCurrent, data), (.dataStop, [])] := by
  have hfits : Cmd.fits t.drv.nb .dataCurrent data = true := beq_iff_eq.mpr (hdata ▸ Memory.readRange_length _ 0 _)
  refine ⟨_, (h.send hopc (congrArg Except.ok hdata) hfits).send hopc rfl rfl,
    (sent_kept .dataCurrent data t).trans (sent_kept .dataStop [] _), rfl, ?_⟩
  rw [transactions_sent, transactions_sent, List.append_assoc, List.singleton_append]

/-- The actions of the transfer before the refresh command (R182). -/
def transferScript (buf : Space) : List Action :=
  [.setSeq .powering, .send .powerOn (.bytes []), .setSeq .transferring, .send .partialOut (.bytes []),
   .send .dataCurrent (.buffer buf), .send .dataStop (.bytes [])]

/-- The chip when the transfer is over. -/
def Chip.updated (data : List Byte) (c : Chip) : Chip :=
  { c with powered := .known true, partialMode := .known false, cur := .known data }

/-- The transfer leaves the buffer in the chip. -/
theorem Reaches.transfer {s t : State} {n k : Nat} {l : List Action} {buf : Space} {data : List Byte}
    (h : Reaches s n (k + 7) (transferScript buf ++ l) t) (hopc : t.cfg.opc.wf = true)
    (hdata : (t.mem.get buf).readRange 0 t.drv.nb = data) :
    ∃ u, Reaches s (n + 6) (k + 1) l u ∧ Kept t u ∧ u.chip = t.chip.updated data ∧
      transactions u.log.trace = transactions t.log.trace ++
        [(.powerOn, []), (.partialOut, []), (.dataCurrent, data), (.dataStop, [])] := by
  obtain ⟨v, hreach, hkeptv, hchipv, htxv⟩ := h.powerUp hopc
  have hdatav : (v.mem.get buf).readRange 0 v.drv.nb = data := by rw [hkeptv.mem, hkeptv.drv, hdata]
  obtain ⟨u, hreach, hkeptu, hchip, htx⟩ := hreach.sendCurrent (by rwa [hkeptv.cfg]) hdatav
  refine ⟨u, hreach, hkeptv.trans hkeptu, by rw [hchip, hchipv]; rfl, ?_⟩
  rw [htx, htxv, List.append_assoc]
  rfl

/-! ### The refresh command, and the block's turns while the refresh runs (R76, log 4) -/

/-- `n` steps lead from `s` to `t`, where a refresh runs, the block is at `l` of its script and `feed` has the coming
turns. -/
structure Refreshing (s : State) (n : Nat) (l : List Action) (feed : List Bool) (t : State) : Prop where
  runs   : Runs n s t
  active : t.chip.engine.active = true
  todo   : t.ctl.todo = l
  turns  : t.env.turnFeed = feed

/-- The refresh command starts a refresh of what the chip holds (R70, R76). -/
theorem Reaches.refresh {s t : State} {n k : Nat} {l : List Action}
    (h : Reaches s n (k + 2) (.send .refresh (.bytes []) :: l) t) (hopc : t.cfg.opc.wf = true) :
    ∃ m u, Refreshing s (n + 1) l s.env.turnFeed u ∧ Kept t u ∧
      u.chip = { t.chip with engine := Engine.start m t.chip } ∧
      u.env.busyFeed.take (k + 1) = List.replicate (k + 1) false ∧
      transactions u.log.trace = transactions t.log.trace ++ [(.refresh, [])] := by
  have hturns : (turned t).env.turnFeed = t.env.turnFeed := if_neg (by simp [h.quiet.1])
  have hstep := step_sent hopc h.quiet h.todo (by decide) (data := []) rfl rfl
  exact ⟨_, _, ⟨h.runs.append (.one hstep), rfl, congrArg List.tail h.todo, hturns.trans h.turns⟩, sent_kept _ _ t, rfl,
    h.quiet.turned.2, transactions_sent _ _ t⟩

/-- On a turn of the block the next action is performed while the refresh runs. -/
theorem Refreshing.step_perform {s t : State} {n : Nat} {a : Action} {l : List Action} {feed : List Bool}
    (h : Refreshing s n (a :: l) (false :: feed) t) (ha : ∀ c d, a ≠ .send c d) :
    step t = .next (Machine.perform a (turned t)) := by
  rw [step_action (by simp [engineTurn, h.turns]) h.todo]
  cases a with
  | send c d => exact absurd rfl (ha c d)
  | _ => rfl

/-- The block goes on with its script while the refresh runs (log 4). -/
theorem Refreshing.perform {s t : State} {n : Nat} {a : Action} {l : List Action} {feed : List Bool}
    (h : Refreshing s n (a :: l) (false :: feed) t) (ha : ∀ c d, a ≠ .send c d := by nofun)
    (htodo : (Machine.perform a (turned t)).ctl.todo = t.ctl.todo.tail := by rfl) :
    Refreshing s (n + 1) l feed (Machine.perform a (turned t)) := by
  have htaken : (turned t).env.turnFeed = t.env.turnFeed.tail := if_pos h.active
  refine ⟨h.runs.append (.one (h.step_perform ha)), (perform_active a (turned t)).trans h.active,
    htodo.trans (by rw [h.todo]; rfl), ?_⟩
  rw [perform_env]
  exact htaken.trans (by rw [h.turns]; rfl)

/-- The return while the refresh runs (R186). -/
theorem Refreshing.ret {s t : State} {n : Nat} {v : Bool} {feed : List Bool}
    (h : Refreshing s n [.ret v] (false :: feed) t) : Runs (n + 1) s (Machine.ret v (turned t)) :=
  h.runs.append (.one (h.step_perform nofun))

/-! ### UPDATE without injection (R178, R180, R184) -/

/-- The actions of an UPDATE that does not inject, after the refresh command. -/
def updateEnd (blocking : Bool) : List Action :=
  .setSeq .refreshing :: .bumpCount :: ((if blocking then powerOffTail else []) ++ [.ret true])

theorem updateScript_without_injection (blocking : Bool) (buf : Space) : updateScript false blocking buf =
    transferScript buf ++ .send .refresh (.bytes []) :: updateEnd blocking := by
  cases blocking <;> rfl

/-- An UPDATE that has been accepted, after the samples it took. -/
def updateBegun (samples : List Event) (s : State) : State :=
  beginUpdate { accept (some .update) s with log := { s.log with trace := s.log.trace ++ samples } }

/-- The latches of an UPDATE that has been accepted and does not inject (R30, R180). -/
def updateAccepted (s : State) : State :=
  { s with ctl := { s.ctl with op := some .update, err := .none, cause := .none, inj := false } }

theorem updateBegun_kept {s : State} (samples : List Event) (h : injects s = false) :
    Kept (updateAccepted s) (updateBegun samples s) := by
  constructor
  case inj => exact h
  all_goals rfl

theorem Kept.bumpCount {s t : State} (h : Kept s t) :
    Kept { s with drv := { s.drv with updateCount := s.drv.updateCount + 1 } } (perform .bumpCount (turned t)) :=
  { h with drv := congrArg (fun d => { d with updateCount := d.updateCount + 1 }) h.drv }

/-- An UPDATE that does not inject leads in seven steps to the refresh of what it transferred. -/
theorem update_refreshes {s : State} {k : Nat} {blocking : Bool} {data : List Byte} (hrun : s.ctl.running = false)
    (hinit : s.ctl.inited = true) (hopc : s.cfg.opc.wf = true) (hblocking : s.regs.aBlocking = blocking)
    (hinj : ¬ (s.drv.fr = true ∧ 2 ^ s.cfg.fracBits ≤ s.drv.speed ∧ s.drv.fullPeriod ≠ 0 ∧
      s.drv.updateCount % s.drv.fullPeriod = 0))
    (hquiet : Quiet (k + 8) s) (hdata : (s.mem.get s.regs.buffer).readRange 0 s.drv.nb = data) :
    ∃ t m u, exec .update s = .next t ∧ Refreshing t 7 (updateEnd blocking) s.env.turnFeed u ∧
      Kept (updateAccepted s) u ∧
      u.chip = { s.chip.updated data with engine := Engine.start m (s.chip.updated data) } ∧
      u.env.busyFeed.take (k + 1) = List.replicate (k + 1) false ∧
      transactions u.log.trace = transactions s.log.trace ++
        [(.powerOn, []), (.partialOut, []), (.dataCurrent, data), (.dataStop, []), (.refresh, [])] := by
  obtain ⟨samples, hsamples, hexec⟩ := exec_update_begins hrun hinit (.inr (.inr hquiet.ready))
  have hnot : injects s = false := (injects_eq s).trans (decide_eq_false hinj)
  have htodo : (updateBegun samples s).ctl.todo =
      transferScript s.regs.buffer ++ .send .refresh (.bytes []) :: updateEnd blocking := by
    rw [← updateScript_without_injection, ← hnot, ← hblocking]
    rfl
  have hkept := updateBegun_kept samples hnot
  have htx : transactions (updateBegun samples s).log.trace = transactions s.log.trace :=
    (transactions_append _ _).trans (by rw [hsamples, List.append_nil])
  have hbegun : Reaches (updateBegun samples s) 0 (k + 8) _ (updateBegun samples s) := .start hquiet htodo
  obtain ⟨t, hreach, hkeptt, hchipt, htxt⟩ := hbegun.transfer hopc hdata
  obtain ⟨m, u, hrefreshing, hkeptu, hchipu, hfeed, htxu⟩ := hreach.refresh (by rw [hkeptt.cfg]; exact hopc)
  refine ⟨updateBegun samples s, m, u, hexec, hrefreshing, (hkept.trans hkeptt).trans hkeptu, ?_, hfeed, ?_⟩
  · rw [hchipu, hchipt]
    rfl
  · rw [htxu, htxt, htx, List.append_assoc]
    rfl

/-- Settles O30: the transfer, the refresh command, and the last three actions on the block's turns. -/
theorem nonBlockingUpdateTransfers : Obligations.NonBlockingUpdateTransfers := by
  intro s hrun hinit hopc hblocking hinj hquiet hturns buf data
  obtain ⟨t, m, u, hexec, hrefreshing, hkept, hchip, -, htx⟩ :=
    update_refreshes (k := 3) (data := data) hrun hinit hopc hblocking hinj hquiet rfl
  obtain ⟨feed, hfeed⟩ : ∃ feed, s.env.turnFeed = false :: false :: false :: feed :=
    ⟨_, (List.take_append_drop 3 s.env.turnFeed).symm.trans (congrArg (· ++ _) hturns)⟩
  rw [hfeed] at hrefreshing
  have hdone := (hkept.trans (setSeq_kept .refreshing u)).bumpCount
  exact ⟨t, _, hexec, hrefreshing.perform.perform.ret, rfl, rfl, hdone.err, rfl, hdone.inj, hdone.results_ret true,
    hdone.drv, congrArg Chip.cur hchip, (congrArg Chip.prev hchip).trans rfl, congrArg Chip.powered hchip,
    congrArg Chip.partialMode hchip, congrArg (·.engine.active) hchip, congrArg (·.engine.cur) hchip,
    (congrArg Chip.tables hchip).trans rfl, (congrArg Chip.lutSrc hchip).trans rfl, hdone.inited.trans hinit, htx,
    hdone.mem, hdone.regs, hdone.tabs, hdone.grey⟩

/-! ### The refresh run out (R76, R100, log 4) -/

/-- A row drives its line with some holds, or with none. -/
theorem exists_rowRan (r : RowOp) (s : State) : ∃ holds gap, RowRan s (runRow r s) holds gap := by
  rcases runRow_cases r s with ⟨-, h⟩ | ⟨-, h⟩ <;> rw [h]
  · exact ⟨_, _, skipRow_ran s⟩
  · exact ⟨_, _, driveRow_ran r s⟩

/-- `p` rows of a refresh have led from `s` to `t`: the block is where it was, and the chip holds what it held. -/
structure RowsKept (p : Nat) (s t : State) : Prop where
  kept     : Kept s t
  ctl      : t.ctl = s.ctl
  log      : t.log = s.log
  chip     : t.chip = { s.chip with engine := t.chip.engine, prev := t.chip.prev, cur := t.chip.cur }
  cur      : t.chip.cur.last = s.chip.cur.last
  busyFeed : t.env.busyFeed = s.env.busyFeed.drop p

theorem RowsKept.zero (s : State) : RowsKept 0 s s := by
  constructor
  case kept => constructor <;> rfl
  all_goals rfl

/-- One row more. -/
theorem RowsKept.row {p : Nat} {s t : State} (h : RowsKept p s t) (r : RowOp) :
    RowsKept (p + 1) s (runRow r (turned t)) := by
  obtain ⟨holds, gap, -, hchip, -, -, hcur, -, hctl, -, hlog, henv⟩ := exists_rowRan r (turned t)
  have hrow : Kept t (runRow r (turned t)) := by constructor <;> simp
  refine ⟨h.kept.trans hrow, hctl.trans h.ctl, hlog.trans h.log, hchip.trans ?_, hcur.trans h.cur, ?_⟩
  · rw [turned_chip, h.chip]
  · rw [henv, ← List.tail_drop, ← h.busyFeed]
    rfl

/-- A step on the engine's turn runs one row more (R100). -/
theorem RowsKept.step {p : Nat} {s t : State} (h : RowsKept p s t) (hat : AtRow p t) (hp : p < 35) :
    ∃ u, Machine.step t = .next u ∧ RowsKept (p + 1) s u ∧ RowAdvanced t u ∧
      u.env.turnFeed = t.env.turnFeed.tail := by
  refine ⟨_, step_engine (hat.engineTurn hp), h.row _, runRow_advanced _ (turned t), ?_⟩
  obtain ⟨_, _, -, -, -, -, -, -, -, -, -, henv⟩ := exists_rowRan t.chip.engine.rowOp (turned t)
  rw [henv]
  exact if_pos hat.active

/-- The rows of a refresh on turns that are the engine's, whatever its tables hold. -/
theorem rows_run {s : State} (hat : AtRow 0 s) {p : Nat} (hp : p < 35) :
    ∃ t, Runs p s t ∧ AtRow p t ∧ RowsKept p s t := by
  induction p with
  | zero => exact ⟨s, Runs.zero s, hat, RowsKept.zero s⟩
  | succ p ih =>
    obtain ⟨t, hruns, hat, hkept⟩ := ih (by omega)
    obtain ⟨u, hstep, hkept, hadv, hfeed⟩ := hkept.step hat (by omega)
    exact ⟨u, hruns.append (.one hstep), hat.next hp hadv hfeed, hkept⟩

/-- The 35th row ends the refresh. -/
theorem refresh_ends {s : State} (hat : AtRow 0 s) :
    ∃ t, Runs 35 s t ∧ t.chip.engine.active = false ∧ RowsKept 35 s t := by
  obtain ⟨t, hruns, hat, hkept⟩ := rows_run hat (p := 34) (by omega)
  obtain ⟨u, hstep, hkept, hadv, -⟩ := hkept.step hat (by omega)
  exact ⟨u, hruns.append (.one hstep), (hat.last hadv).1, hkept⟩

/-! ### Blocking (R185) -/

/-- Settles O31: the transfer and the refresh command, the 35 rows, then the rest of the script with its power-off. -/
theorem blockingUpdatePowersOff : Obligations.BlockingUpdatePowersOff := by
  intro s hrun hinit hopc hblocking hinj hquiet hturns buf data
  obtain ⟨t, m, u, hexec, hrefreshing, hkept, hchip, hfeed, htx⟩ :=
    update_refreshes (k := 43) (data := data) hrun hinit hopc hblocking hinj hquiet rfl
  have hat : AtRow 0 u :=
    ⟨hrefreshing.active, by rw [hchip]; rfl, by rw [hchip]; rfl, by rw [hrefreshing.turns]; exact hturns⟩
  obtain ⟨v, hrows, hidle, hran⟩ := refresh_ends hat
  have hquietv : Quiet 9 v := by
    refine ⟨hidle, ?_⟩
    rw [hran.busyFeed, List.take_drop, hfeed]
    rfl
  have hreach : Reaches v 0 9 (updateEnd true) v := .start hquietv (by rw [hran.ctl]; exact hrefreshing.todo)
  have hcounted := ((hkept.trans hran.kept).trans (setSeq_kept .refreshing v)).bumpCount
  obtain ⟨w, hoff, hkeptw, hseq, hchipw, htxw⟩ := hreach.perform.perform.powerOff (by rw [hcounted.cfg]; exact hopc)
  have hdone := hcounted.trans hkeptw
  have hw : w.chip = { s.chip.updated data with
      engine := v.chip.engine, prev := v.chip.prev, cur := v.chip.cur, powered := .known false } := by
    have hv : (perform .bumpCount (turned (perform (.setSeq .refreshing) (turned v)))).chip = v.chip := rfl
    rw [hchipw, hv, hran.chip, hchip]
  have hcur : w.chip.cur.last = data := by
    rw [hw]
    exact hran.cur.trans (by rw [hchip]; rfl)
  have htxv : transactions v.log.trace = transactions u.log.trace := by rw [hran.log]
  have htrace := htxw.trans (congrArg (· ++ [(Cmd.powerOff, ([] : List Byte))]) (htxv.trans htx))
  exact ⟨t, _, hexec, hrefreshing.runs.append (hrows.append hoff.ret), rfl, rfl, hdone.err, hseq, hdone.inj,
    hdone.results_ret true, hdone.drv, congrArg Chip.powered hw, (congrArg (·.engine.active) hw).trans hidle, hcur,
    (congrArg Chip.tables hw).trans rfl, (congrArg Chip.lutSrc hw).trans rfl, congrArg Chip.partialMode hw,
    hdone.inited.trans hinit, htrace.trans (List.append_assoc _ _ _), hdone.mem, hdone.regs, hdone.tabs, hdone.grey⟩

end Sys2Proof.Machine
end

section
/-!
PROOFS. The primitives of the greyscale multiplexer: the levels (spec/42_greyscale_multiplexer.md R221), the classes of a
pass (R223, R226, R233), and its five tables (R227, R228).
-/
namespace Sys2Proof.Machine

/-! ### The levels (R221) -/

/-- NORMALIZE is less than half a unit from the exact quotient: an even number is divided by 510, so no tie occurs. -/
theorem normalizeLevel_nearest (l : Byte) (g : Nat) :
    510 * normalizeLevel l g < 2 * ((255 - l.toNat) * (g - 1)) + 255 ∧
      2 * ((255 - l.toNat) * (g - 1)) < 510 * normalizeLevel l g + 255 := by
  rw [normalizeLevel, Nat.mul_assoc]
  omega

theorem normalizeLevel_le (l : Byte) (g : Nat) : normalizeLevel l g ≤ g - 1 := by
  have hquotient : (255 - l.toNat) * (g - 1) ≤ 255 * (g - 1) := Nat.mul_le_mul_right _ (Nat.sub_le _ _)
  have hnear := normalizeLevel_nearest l g
  omega

/-- White, and every luminance of an image with one level, is level 0. -/
theorem normalizeLevel_eq_zero {l : Byte} {g : Nat} (h : (255 - l.toNat) * (g - 1) = 0) : normalizeLevel l g = 0 := by
  have hnear := normalizeLevel_nearest l g
  omega

theorem normalizeLevel_black {l : Byte} (g : Nat) (h : l.toNat = 0) : normalizeLevel l g = g - 1 := by
  have hnear := normalizeLevel_nearest l g
  rw [h] at hnear
  omega

/-- A space rewritten in full reads as the bytes it was rewritten with. -/
theorem Memory.read_ofBytes_getD {bytes : List Byte} {i : Nat} (h : i < bytes.length) :
    (Memory.ofBytes 0 bytes).read i = bytes[i]?.getD 0 := by
  have hread := Memory.read_ofBytes 0 h
  rw [Nat.zero_add] at hread
  rw [hread, List.getElem?_eq_getElem h, Option.getD_some]

/-- Of each byte read from LUM the first part of a render makes the level in LVL (R231). -/
theorem doNormalise_lvl (s : State) {i : Nat} (h : i < s.drv.np) : (doNormalise s).mem.lvl.read i =
    BitVec.ofNat 8 (normalizeLevel ((s.mem.lum.readRange 0 s.drv.np)[i]?.getD 0) s.grey.g) := by
  have hlen := Memory.readRange_length s.mem.lum 0 s.drv.np
  have hread : (doNormalise s).mem.lvl.read i = (levelsOf (s.mem.lum.readRange 0 s.drv.np) s.grey.g)[i]?.getD 0 :=
    Memory.read_ofBytes_getD (by simpa [levelsOf, hlen] using h)
  rw [hread, levelsOf, List.getElem?_map, List.getElem?_eq_getElem (by rwa [hlen])]
  rfl

/-- A range read of a canonical memory has the byte of each of its addresses. -/
theorem Memory.readRange_getD {m : Memory} (hm : m.wf = true) {n i : Nat} (h : i < n) :
    (m.readRange 0 n)[i]?.getD 0 = m.read i := by
  rw [Memory.readRange_eq hm, List.getElem?_map, List.getElem?_range h, Option.map_some, Nat.zero_add, Option.getD_some]

/-- Normalisation writes no space but LVL (R231). -/
theorem doNormalise_get (s : State) {sp : Space} (h : sp ≠ .lvl) : (doNormalise s).mem.get sp = s.mem.get sp := by
  cases sp with
  | lvl => exact absurd rfl h
  | _ => rfl

/-- Settles O41: the bounds of the rounding, and the levels of the pixels, which fit a byte. -/
theorem normalizeRoundsToNearest : Obligations.NormalizeRoundsToNearest := by
  refine ⟨fun l g _ _ => ?_, fun s hwf _ hg => ⟨fun i hi => ?_, fun sp a hsp => ?_, rfl⟩⟩
  · obtain ⟨hlow, hhigh⟩ := normalizeLevel_nearest l g
    exact ⟨normalizeLevel_le l g, by omega, by omega, fun h => normalizeLevel_eq_zero (by simp [h]),
      normalizeLevel_black g⟩
  · have hfits := normalizeLevel_le (s.mem.lum.read i) s.grey.g
    have hlevel : (perform .normalise s).mem.lvl.read i = BitVec.ofNat 8 (normalizeLevel (s.mem.lum.read i) s.grey.g) :=
      Memory.readRange_getD ((Spaces.wf_iff _).mp hwf .lum) hi ▸ doNormalise_lvl s hi
    rw [hlevel, BitVec.toNat_ofNat]
    exact Nat.mod_eq_of_lt (by omega)
  · exact congrArg (Memory.read · a) (doNormalise_get s hsp)

/-! ### The classes of a pass (R223) -/

/-- The four rows of the table of R223. -/
theorem greyClass_cases (g : Nat) (level : Byte) :
    (greyClass g level = .ww ∧ level.toNat = g + 1) ∨ (greyClass g level = .bb ∧ level.toNat = g + 2) ∨
    (greyClass g level = .wb ∧ level.toNat = g + 3) ∨
    (greyClass g level = .bw ∧ level.toNat ≠ g + 1 ∧ level.toNat ≠ g + 2 ∧ level.toNat ≠ g + 3) := by
  unfold greyClass
  split
  · next h => exact .inl ⟨rfl, h⟩
  · next h1 =>
    split
    · next h => exact .inr (.inl ⟨rfl, h⟩)
    · next h2 =>
      split
      · next h => exact .inr (.inr (.inl ⟨rfl, h⟩))
      · next h3 => exact .inr (.inr (.inr ⟨rfl, h1, h2, h3⟩))

/-- The driven classes are those of the three levels of the pass. -/
theorem greyClass_ne_bw_iff (g : Nat) (level : Byte) :
    greyClass g level ≠ .bw ↔ level.toNat = g + 1 ∨ level.toNat = g + 2 ∨ level.toNat = g + 3 := by
  rcases greyClass_cases g level with ⟨h, hl⟩ | ⟨h, hl⟩ | ⟨h, hl⟩ | ⟨h, hl⟩ <;> simp [h, hl]

theorem greyClass_ne_vcom (g : Nat) (level : Byte) : greyClass g level ≠ .vcom := by
  rcases greyClass_cases g level with ⟨h, -⟩ | ⟨h, -⟩ | ⟨h, -⟩ | ⟨h, -⟩ <;> rw [h] <;> decide

/-- Settles O42: the three levels of a pass are those whose predecessors have the pass as their multiple of three. -/
theorem greyLevelsPartition : Obligations.GreyLevelsPartition := by
  intro c g base level _ _ hlevel hstep hbase
  have hpos : 0 < greyStep c g := Nat.pos_of_ne_zero hstep
  refine ⟨?_, fun hdriven => ⟨?_, Nat.mul_pos hpos ?_, ?_⟩⟩
  · rw [greyClass_ne_bw_iff]
    omega
  · have := (greyClass_ne_bw_iff base level).mp hdriven
    omega
  · have := (greyClass_ne_bw_iff base level).mp hdriven
    omega
  · rcases greyClass_cases base level with ⟨h, hl⟩ | ⟨h, hl⟩ | ⟨h, hl⟩ | ⟨h, -⟩
    · rw [h, hl]
    · rw [h, hl]
    · rw [h, hl]
    · exact absurd h hdriven

/-! ### The tables of a pass (R227) -/

/-- The one used row of a table of a pass: a code held for n frames, once. -/
def greyRowOp (k : Code) (n : Byte) : RowOp := ⟨k, 0, 0, 0, n, 0, 0, 0, 1⟩

/-- SET_LUT_ROW writes that row at the head of an empty table. -/
theorem setLutRow_greyRow (m : Nat) (k : Code) (n : Byte) (pat : Nat) (hpat : pat = k.toNat <<< 6) :
    setLutRow (zeros (m + 6)) 0 ⟨pat, n.toNat, 0, 0, 0, 1⟩ = .ok ((greyRowOp k n).bytes ++ zeros m) := by
  have hargs : (⟨pat, n.toNat, 0, 0, 0, 1⟩ : RowArgs) = (greyRowOp k n).args := by
    simp only [greyRowOp, RowOp.args, patByte_toNat, hpat]
    simp
  rw [hargs, setLutRow_fit (by decide) (by decide) (RowOp.args_fits _), RowOp.args_bytes]
  simp [zeros]

/-- The tables of a pass, each of one used row but for BW, which drives nothing. -/
def greyTables (c : Config) (n1 n2 n3 : Byte) : Tables :=
  { vcom := (greyRowOp 0 n3).bytes ++ zeros 38, ww := (greyRowOp c.polarity.black n1).bytes ++ zeros 36,
    wb := (greyRowOp c.polarity.black n3).bytes ++ zeros 36, bb := (greyRowOp c.polarity.black n2).bytes ++ zeros 36,
    bw := zeros 42 }

theorem greyTablesOf_eq (c : Config) (n1 n2 n3 : Byte) : greyTablesOf c n1 n2 n3 = .ok (greyTables c n1 n2 n3) := by
  have hpixel (n : Byte) := setLutRow_greyRow 36 c.polarity.black n _ rfl
  have hvcom : setLutRow (zeros 44) 0 ⟨0, n3.toNat, 0, 0, 0, 1⟩ = .ok ((greyRowOp 0 n3).bytes ++ zeros 38) :=
    setLutRow_greyRow 38 0 n3 0 rfl
  simp only [greyTablesOf]
  rw [hpixel n1, hpixel n2, hpixel n3, hvcom]
  rfl

/-- Settles O45: the bytes of the tables, and their place in the table buffers. -/
theorem greyTablesBytes : Obligations.GreyTablesBytes := by
  refine ⟨fun c n1 n2 n3 => ⟨_, greyTablesOf_eq c n1 n2 n3, rfl, rfl, rfl, rfl, rfl⟩,
    fun s => ⟨_, greyTablesOf_eq s.cfg s.grey.n1 s.grey.n2 s.grey.n3, ?_⟩⟩
  simp only [perform, doGreyTables, greyTablesOf_eq]
  rfl

end Sys2Proof.Machine
end

section
/-!
PROOFS. The masks of a pass (spec/42_greyscale_multiplexer.md R223 to R225) and the head of the pass loop (R222, R226, R228,
R229, R231).
-/
namespace Sys2Proof.Machine

/-! ### Packing (R224, spec/20_memory.md R62) -/

/-- The byte of eight pixels has the first in its most significant bit. -/
theorem packedByte_bit (b0 b1 b2 b3 b4 b5 b6 b7 : Bool) {i : Nat} (h : i < 8) :
    (BitVec.ofBool b0 ++ BitVec.ofBool b1 ++ BitVec.ofBool b2 ++ BitVec.ofBool b3 ++ BitVec.ofBool b4 ++
      BitVec.ofBool b5 ++ BitVec.ofBool b6 ++ BitVec.ofBool b7).getLsbD (7 - i) =
      [b0, b1, b2, b3, b4, b5, b6, b7][i] := by
  interval_cases i
  all_goals
    repeat rw [BitVec.getLsbD_append]
    simp

/-- Eight bits at a time. -/
theorem packBits_append {l : List Bool} (m : List Bool) (h : l.length = 8) :
    ∃ b, packBits (l ++ m) = b :: packBits m ∧ ∀ (i : Nat) (hi : i < 8), b.getLsbD (7 - i) = l[i] := by
  match l, h with
  | [b0, b1, b2, b3, b4, b5, b6, b7], _ => exact ⟨_, rfl, fun _ => packedByte_bit b0 b1 b2 b3 b4 b5 b6 b7⟩

/-- Bits that fill n bytes are packed in n bytes, of which pixel i is bit i. -/
theorem packBits_pixels {l : List Bool} {n : Nat} (h : l.length = 8 * n) : (packBits l).length = n ∧
    ∀ (i : Nat) (hi : i < l.length), pixelOf (fun k => (packBits l)[k]?.getD 0) i = l[i] := by
  induction n generalizing l with
  | zero =>
    obtain rfl := List.length_eq_zero_iff.mp h
    exact ⟨rfl, nofun⟩
  | succ n ih =>
    obtain ⟨a, m, rfl, ha⟩ : ∃ a m, l = a ++ m ∧ a.length = 8 :=
      ⟨l.take 8, l.drop 8, (List.take_append_drop 8 l).symm, List.length_take_of_le (by omega)⟩
    rw [List.length_append, ha] at h
    obtain ⟨b, hpack, hbits⟩ := packBits_append m ha
    obtain ⟨hlen, hrest⟩ := ih (l := m) (by omega)
    refine ⟨by rw [hpack, List.length_cons, hlen], fun i hi => ?_⟩
    rw [List.length_append, ha] at hi
    simp only [pixelOf, hpack] at hrest ⊢
    by_cases hlow : i < 8
    · rw [List.getElem_append_left (by omega), ← hbits i hlow, Nat.div_eq_of_lt hlow, Nat.mod_eq_of_lt hlow]
      rfl
    · obtain ⟨j, rfl⟩ : ∃ j, i = j + 8 := ⟨i - 8, by omega⟩
      rw [List.getElem_append_right (by omega), Nat.add_div_right j (by decide), Nat.add_mod_right,
        List.getElem?_cons_succ, hrest j (by omega)]
      simp only [ha, Nat.add_sub_cancel]

/-- A space rewritten with packed bits has them as its pixels, read byte by byte or as a range. -/
theorem pixelOf_ofBytes_packBits {l : List Bool} {n : Nat} (h : l.length = 8 * n) {i : Nat} (hi : i < l.length) :
    pixelOf ((Memory.ofBytes 0 (packBits l)).read ·) i = l[i] ∧
      pixelOf (Shadow.known ((Memory.ofBytes 0 (packBits l)).readRange 0 n)).byteAt i = l[i] := by
  obtain ⟨hlen, hpixel⟩ := packBits_pixels h
  rw [← hpixel i hi]
  constructor
  · have hbyte : i / 8 < (packBits l).length := by omega
    simp only [pixelOf, Memory.read_ofBytes_getD hbyte]
  · have hrange := Memory.readRange_ofBytes (packBits l)
    rw [hlen] at hrange
    rw [hrange]
    rfl

/-! ### The masks of a pass (R223, R225) -/

/-- A refresh sorts a pixel by the two bits of its class (R45, R223). -/
theorem classOf_of_bits {e : Engine} {i : Nat} {l : Lane} (hold : pixelOf e.prev.byteAt i = oldBit l)
    (hnew : pixelOf e.cur.byteAt i = newBit l) (hl : l ≠ .vcom) : e.classOf i = l := by
  unfold Engine.classOf
  rw [hold, hnew]
  cases l with
  | vcom => exact absurd rfl hl
  | _ => rfl

/-- The class of a pixel in the pass with base level g. -/
def pixelClass (g : Nat) (s : State) (i : Nat) : Lane := greyClass g ((s.mem.lvl.readRange 0 s.drv.np)[i]?.getD 0)

/-- A mask made of one bit of each class has at a pixel that bit of the pixel's class. -/
theorem pixelOf_mask {s : State} (h8 : s.drv.np % 8 = 0) {bit : Lane → Bool} {g i : Nat} (hi : i < s.drv.np) {m : Memory}
    (hm : m = Memory.ofBytes 0 (packBits ((s.mem.lvl.readRange 0 s.drv.np).map fun l => bit (greyClass g l)))) :
    pixelOf (m.read ·) i = bit (pixelClass g s i) ∧
      pixelOf (Shadow.known (m.readRange 0 s.drv.nb)).byteAt i = bit (pixelClass g s i) := by
  have hlen := Memory.readRange_length s.mem.lvl 0 s.drv.np
  have hnb : s.drv.np = 8 * s.drv.nb := by
    have : s.drv.nb = s.drv.np / 8 := rfl
    omega
  have hpixels := pixelOf_ofBytes_packBits (n := s.drv.nb) (i := i)
    (l := (s.mem.lvl.readRange 0 s.drv.np).map fun l => bit (greyClass g l))
    (by rw [List.length_map, hlen, hnb]) (by rwa [List.length_map, hlen])
  rw [hm, pixelClass, List.getElem?_eq_getElem (by rwa [hlen]), Option.getD_some]
  rwa [List.getElem_map] at hpixels

/-- ANY says whether some pixel is in a driven class (R225). -/
theorem buildMasks_any_iff (g : Nat) (s : State) :
    (buildMasks g s).ctl.any = true ↔ ∃ i, i < s.drv.np ∧ pixelClass g s i ≠ .bw := by
  have hlen := Memory.readRange_length s.mem.lvl 0 s.drv.np
  have hany : (buildMasks g s).ctl.any = anyOf g (s.mem.lvl.readRange 0 s.drv.np) := rfl
  simp only [hany, anyOf, List.any_eq_true, bne_iff_ne, List.mem_iff_getElem, hlen]
  constructor
  · rintro ⟨_, ⟨i, hi, rfl⟩, hclass⟩
    refine ⟨i, hi, ?_⟩
    rwa [pixelClass, List.getElem?_eq_getElem, Option.getD_some]
  · rintro ⟨i, hi, hclass⟩
    refine ⟨_, ⟨i, hi, rfl⟩, ?_⟩
    rwa [pixelClass, List.getElem?_eq_getElem, Option.getD_some] at hclass

/-- BUILD_MASKS writes no space but the two masks (R223). -/
theorem buildMasks_get (g : Nat) (s : State) {sp : Space} (hold : sp ≠ .maskOld) (hnew : sp ≠ .maskNew) :
    (buildMasks g s).mem.get sp = s.mem.get sp := by
  cases sp with
  | maskOld => exact absurd rfl hold
  | maskNew => exact absurd rfl hnew
  | _ => rfl

/-- Settles O43: both masks pixel by pixel, read as memory and as the chip's image slots, and ANY. -/
theorem masksEncodeClasses : Obligations.MasksEncodeClasses := by
  intro s g h8 t level
  have hold {i : Nat} (hi : i < s.drv.np) := pixelOf_mask h8 (bit := oldBit) (g := g) hi (m := t.mem.maskOld) rfl
  have hnew {i : Nat} (hi : i < s.drv.np) := pixelOf_mask h8 (bit := newBit) (g := g) hi (m := t.mem.maskNew) rfl
  refine ⟨fun i hi => ⟨(hold hi).1, (hnew hi).1⟩, fun e hprev hcur i hi => ?_, ?_, fun sp a ho hn => ?_, rfl, rfl, rfl,
    rfl, rfl, rfl, rfl, rfl, rfl, rfl⟩
  · exact classOf_of_bits (l := pixelClass g s i) (hprev ▸ (hold hi).2) (hcur ▸ (hnew hi).2) (greyClass_ne_vcom _ _)
  · exact (buildMasks_any_iff g s).trans (exists_congr fun i => and_congr_right fun _ => greyClass_ne_bw_iff g (level i))
  · exact congrArg (Memory.read · a) (buildMasks_get g s ho hn)

/-! ### The head of the pass loop (R222, R229, R231) -/

/-- GBASE and the masks of a pass. -/
def passBegun (g : Nat) (s : State) : State := buildMasks g { s with grey := { s.grey with gbase := g } }

/-- The action is done, and these come next. -/
def advanceTo (l : List Action) (s : State) : State :=
  { advance s with ctl := { s.ctl.next with todo := l ++ s.ctl.todo.tail } }

/-- Past the last pass the loop is left. -/
theorem doGreyLoop_past {g : Nat} {s : State} (h : s.grey.g < g + 2) : doGreyLoop g s = advance s :=
  if_neg (Nat.not_le.mpr h)

/-- In the loop the masks are built, and ANY says whether the pass is performed (R229, R231). -/
theorem doGreyLoop_pass {g : Nat} {s : State} (h : g + 2 ≤ s.grey.g) :
    let p := passBegun g s
    doGreyLoop g s = advanceTo ((if p.ctl.any then greyPass else []) ++ [.greyLoop (g + 3)])
      (if p.ctl.any then setCounts g p else p) := if_pos h

/-- A pass that matches no pixel is skipped (R229). -/
theorem doGreyLoop_skips {g : Nat} {s : State} (h : g + 2 ≤ s.grey.g) (hany : (buildMasks g s).ctl.any = false) :
    doGreyLoop g s = advanceTo [.greyLoop (g + 3)] (passBegun g s) := by
  rw [doGreyLoop_pass h, show (passBegun g s).ctl.any = false from hany]
  rfl

/-- A pass that matches a pixel is performed, with its frame counts (R226, R228). -/
theorem doGreyLoop_performs {g : Nat} {s : State} (h : g + 2 ≤ s.grey.g) (hany : (buildMasks g s).ctl.any = true) :
    doGreyLoop g s = advanceTo (greyPass ++ [.greyLoop (g + 3)]) (setCounts g (passBegun g s)) := by
  rw [doGreyLoop_pass h, show (passBegun g s).ctl.any = true from hany]
  rfl

/-- Settles O44: the step at the head of the loop, in its three cases. -/
theorem greyLoopPerformsMatchingPasses : Obligations.GreyLoopPerformsMatchingPasses := by
  intro s g rest hturn htodo k
  have hstep : step s = .next (doGreyLoop g (turned s)) := step_action hturn htodo
  have hrest : s.ctl.todo.tail = rest := congrArg List.tail htodo
  refine ⟨fun hpast => ?_, fun hpass => ?_⟩
  · exact ⟨_, hstep.trans (congrArg _ (doGreyLoop_past hpast)), hrest, rfl, rfl, rfl, rfl, rfl, rfl⟩
  · cases hany : (buildMasks g s).ctl.any with
    | false =>
      exact ⟨_, hstep.trans (congrArg _ (doGreyLoop_skips hpass hany)), rfl, rfl, hany, rfl, rfl, rfl, rfl, rfl,
        fun _ => ⟨congrArg (_ :: ·) hrest, rfl, rfl, rfl⟩, fun h => absurd (hany.symm.trans h) nofun⟩
    | true =>
      exact ⟨_, hstep.trans (congrArg _ (doGreyLoop_performs hpass hany)), rfl, rfl, hany, rfl, rfl, rfl, rfl, rfl,
        fun h => absurd (hany.symm.trans h) nofun, fun _ => ⟨rfl, rfl, rfl, congrArg (_ ++ ·) hrest⟩⟩

end Sys2Proof.Machine
end

section
/-!
PROOFS. GREY_RENDER (spec/42_greyscale_multiplexer.md R231): what it begins, and a whole render with one grey level, which
performs no pass and restores the tables (R222, R230).
-/
namespace Sys2Proof.Machine

/-! ### GREY_RENDER begins (R231, R232) -/

/-- A GREY_RENDER that has been accepted. -/
def renderBegun (s : State) : State :=
  start greyScript { accept (some .greyRender) s with grey := { s.grey with g := s.regs.argG.toNat } }

/-- A GREY_RENDER with legal operands passes its checks, that of the durations at the base level of the last pass. -/
theorem exec_greyRender_begins {s : State} (hrun : s.ctl.running = false) (hinit : s.ctl.inited = true)
    (hspeed : s.drv.speed ≠ 0) (hlow : 1 ≤ s.regs.argG.toNat) (hhigh : s.regs.argG.toNat ≤ 32)
    (hstep : s.cfg.framesToBlack / s.regs.argG.toNat ≠ 0)
    (hlast : 2 ≤ s.regs.argG.toNat →
      s.cfg.framesToBlack / s.regs.argG.toNat * (3 * ((s.regs.argG.toNat - 2) / 3) + 3) ≤ 255) :
    exec .greyRender s = .next (renderBegun s) := by
  have hlevels : ¬ (s.regs.argG.toNat < 1 ∨ 32 < s.regs.argG.toNat ∨
      s.cfg.framesToBlack / s.regs.argG.toNat = 0) := by omega
  have hduration : ¬ (2 ≤ s.regs.argG.toNat ∧
      255 < greyStep s.cfg s.regs.argG.toNat * (greyLastBase s.regs.argG.toNat + 3)) :=
    fun ⟨hg, hlong⟩ => absurd (hlast hg) (Nat.not_le.mpr hlong)
  rw [exec_greyRender_levels_ok hrun hinit hlevels]
  exact congrArg Host.Outcome.next ((if_neg hspeed).trans (if_neg hduration))

/-- Settles O39: every check passes, so G is latched and the script begins. -/
theorem greyRenderBegins : Obligations.GreyRenderBegins := by
  intro s hrun hinit hspeed g hlow hhigh hstep hlast
  exact ⟨_, exec_greyRender_begins hrun hinit hspeed hlow hhigh hstep hlast, rfl, rfl, rfl, rfl, rfl, rfl, rfl, rfl,
    fun _ _ => rfl, rfl, rfl⟩

/-! ### One grey level (R222, R230, R234) -/

/-- Normalisation changes LVL alone (R231). -/
theorem normalise_kept (s : State) :
    Kept { s with mem := (doNormalise s).mem } (perform .normalise (turned s)) := by constructor <;> rfl

/-- With one grey level the loop has no pass (R222). -/
theorem Reaches.noPass {s t : State} {n k : Nat} {l : List Action} (h : Reaches s n (k + 1) (.greyLoop 0 :: l) t)
    (hg : t.grey.g = 1) : Reaches s (n + 1) k l (advance (turned t)) := by
  have hpast : Machine.perform (.greyLoop 0) (turned t) = advance (turned t) :=
    doGreyLoop_past (show t.grey.g < 2 by omega)
  exact hpast ▸ h.perform nofun (by rw [hpast]; rfl)

theorem advance_turned_kept (s : State) : Kept s (advance (turned s)) := by constructor <;> rfl

/-- The restore puts the tables of SPEED and FR in the buffers and in the chip (R230). -/
theorem Reaches.restore {s t : State} {n k : Nat} {l : List Action}
    (h : Reaches s n (k + 7) (.synth :: Machine.loadLuts ++ l) t) (hopc : t.cfg.opc.wf = true)
    (hlo : 2 ^ t.cfg.fracBits ≤ t.drv.speed) (hhi : t.drv.speed ≤ 6 * 2 ^ t.cfg.fracBits) :
    let tabs := synthTables t.cfg t.drv.speed t.drv.fr
    ∃ u, Reaches s (n + 6) (k + 1) l u ∧ Kept { t with tabs := tabs } u ∧ u.ctl.seq = t.ctl.seq ∧
      u.chip = { t.chip with tables := tabs.inChip } ∧
      (observe u).trace = (observe t).trace ++ (lutLoads tabs).map fun e => .tx t.drv.hasBusy e.1 e.2 := by
  have hkept : Kept { t with tabs := synthTables t.cfg t.drv.speed t.drv.fr } (synthesized t) := by constructor <;> rfl
  obtain ⟨u, hreach, hloaded, hseq, hchip, htrace⟩ :=
    (h.synth hlo hhi).loadLuts hopc (synthesize_sized (synthesize_eq hlo hhi _))
  exact ⟨u, hreach, hkept.trans hloaded, hseq, hchip, htrace⟩

/-- Settles O40: every level is 0, the loop is left at once, and the tables are restored. -/
theorem oneLevelRenderOnlyRestores : Obligations.OneLevelRenderOnlyRestores := by
  intro s hrun hinit hopc harg hframes hlo hhi hquiet
  have hone : s.regs.argG.toNat = 1 := congrArg BitVec.toNat harg
  have hspeed : s.drv.speed ≠ 0 := (Nat.lt_of_lt_of_le (Nat.two_pow_pos _) hlo).ne'
  have hexec := exec_greyRender_begins hrun hinit hspeed hone.ge (by omega) (by simpa [hone] using hframes) (by omega)
  have hbegun : Reaches (renderBegun s) 0 10 greyScript (renderBegun s) := .start hquiet rfl
  obtain ⟨u, hreach, hkept, hseq, hchip, htrace⟩ := (hbegun.perform.noPass hone).restore hopc hlo hhi
  have hdone := ((normalise_kept (renderBegun s)).trans (advance_turned_kept _)).withTabs _ |>.trans hkept
  have hmem : u.mem = (doNormalise (renderBegun s)).mem := hdone.mem
  have hspace {sp : Space} (h : sp ≠ .lvl) : u.mem.get sp = s.mem.get sp := by rw [hmem, doNormalise_get _ h]; rfl
  refine ⟨_, _, _, hexec, hreach.ret, synthesize_eq hlo hhi _, hdone.tabs, rfl, rfl, hdone.err, hseq,
    hdone.results_ret true, hchip, transactions_of_observe htrace, hdone.drv, hdone.regs, hspace (sp := .fb0) nofun,
    hspace (sp := .fb1) nofun, hspace (sp := .lum) nofun, hspace (sp := .maskOld) nofun,
    hspace (sp := .maskNew) nofun, fun i hi => ?_⟩
  have hg : (renderBegun s).grey.g - 1 = 0 := by rw [show (renderBegun s).grey.g = 1 from hone]
  have hlevel := doNormalise_lvl (renderBegun s) hi
  rw [normalizeLevel_eq_zero (by rw [hg, Nat.mul_zero])] at hlevel
  exact (congrArg (·.lvl.read i) hmem).trans hlevel

end Sys2Proof.Machine
end

section
/-!
PROOFS. A non-blocking UPDATE on a busy chip (spec/41_refresh_sequencer.md R179): "not started" is a result, not an error
(spec/60_exceptions.md R266).
-/
namespace Sys2Proof.Machine

/-- With a wire that says busy the sample noted is a busy one (R171). -/
theorem afterIsBusy_of_busy {s : State} (hwire : s.drv.hasBusy = true) (hbusy : busyLevel s = true) :
    afterIsBusy s = logEvent (.sample true) s := by
  rw [afterIsBusy_of_wire hwire, hbusy]

/-- A non-blocking UPDATE whose sample says busy notes the sample and returns 0 (R179). -/
theorem exec_update_notStarted {s : State} (hrun : s.ctl.running = false) (hinit : s.ctl.inited = true)
    (hnonblocking : s.regs.argFlags.getLsbD 2 = false) (hwire : s.drv.hasBusy = true) (hbusy : busyLevel s = true) :
    exec .update s = .next (ret false (logEvent (.sample true) (accept (some .update) s))) := by
  have hblocking : ¬ s.regs.aBlocking = true := ne_true_of_eq_false hnonblocking
  have hnow : isBusyNow (accept (some .update) s) = true := Bool.and_eq_true_iff.mpr ⟨hwire, hbusy⟩
  have hsampled : afterIsBusy (accept (some .update) s) = logEvent (.sample true) (accept (some .update) s) :=
    afterIsBusy_of_busy hwire hbusy
  calc exec .update s
      = .next (if s.regs.aBlocking then beginUpdate (accept (some .update) s)
          else if isBusyNow (accept (some .update) s) then ret false (afterIsBusy (accept (some .update) s))
          else beginUpdate (afterIsBusy (accept (some .update) s))) :=
        congrArg Host.Outcome.next (hostOp_accepts hrun (.inr hinit))
    _ = .next (ret false (logEvent (.sample true) (accept (some .update) s))) := by
        rw [if_neg hblocking, if_pos hnow, hsampled]

/-- Settles O28: acceptance clears the error, and after it the sample and the return touch the latches and the log alone. -/
theorem busyUpdateIsNotStarted : Obligations.BusyUpdateIsNotStarted := by
  intro s hrun hinit hnonblocking hwire hbusy
  have hsample : transactions (s.log.trace ++ [.sample true]) = transactions s.log.trace :=
    (transactions_append _ _).trans (List.append_nil _)
  exact ⟨_, exec_update_notStarted hrun hinit hnonblocking hwire hbusy, rfl, rfl, rfl, rfl, rfl, rfl, rfl, rfl, rfl, rfl,
    rfl, hsample, rfl, rfl, rfl, rfl, rfl, rfl, rfl, rfl, fun _ _ => rfl⟩

end Sys2Proof.Machine
end

section
/-!
PROOFS. Block reset (spec/70_reset_and_hazards.md R300) and a host operation before a successful INIT (R303).
-/
namespace Sys2Proof.Machine

/-! ### Before INIT (R303) -/

/-- An operation other than INIT that comes before INIT raises without a look at its body (R268). -/
theorem hostOp_beforeInit {op : HostOp} {body : State → State} {s : State} (hrun : s.ctl.running = false)
    (hinit : s.ctl.inited = false) (hop : op ≠ .init) :
    hostOp op body s = raise .unspecified .beforeInit (accept (some op) s) := by
  rcases hostOp_cases op body s with ⟨hrunning, -⟩ | ⟨-, -, -, hraise⟩ | ⟨-, hinit' | hinited, -⟩
  · exact absurd (hrun.symm.trans hrunning) Bool.false_ne_true
  · exact hraise
  · exact absurd hinit' hop
  · exact absurd (hinit.symm.trans hinited) Bool.false_ne_true

/-- An instruction that is a write of such an operation to CMD changes only the latches. -/
theorem exec_beforeInit {i : Instr} {op : HostOp} {body : State → State} {s : State}
    (hexec : exec i s = .next (hostOp op body s)) (hrun : s.ctl.running = false) (hinit : s.ctl.inited = false)
    (hop : op ≠ .init) :
    ∃ t, exec i s = .next t ∧ Raised .unspecified .beforeInit t ∧ OnlyLatches s t (some op) :=
  exec_raises (hexec.trans (congrArg Host.Outcome.next (hostOp_beforeInit hrun hinit hop)))

/-- Settles O36: each of the six is a write to CMD of an operation other than INIT. -/
theorem operationBeforeInitIsUnspecified : Obligations.OperationBeforeInitIsUnspecified := by
  intro s hrun hinit e he
  simp only [List.mem_cons, List.not_mem_nil, or_false] at he
  rcases he with rfl | rfl | rfl | rfl | rfl | rfl <;> exact exec_beforeInit rfl hrun hinit nofun

/-! ### Block reset (R300) -/

/-- Settles O57: the register fields of the reset state one by one. -/
theorem resetRegisterValues : Obligations.ResetRegisterValues := by
  unfold Obligations.ResetRegisterValues
  exact ⟨rfl, rfl, rfl, rfl, rfl, rfl, rfl, rfl, rfl, rfl, rfl, rfl, rfl, rfl, rfl, rfl, rfl, rfl, rfl, rfl, rfl⟩

/-- Nothing has gone out, so the pins are where block reset puts them, with RESET_N high and no script left (R173, R174). -/
theorem reset_pinsOk : pinsOk State.reset = true := by decide

/-- No reserved bit is set, and speed 0 is legal (R33, R35, R132). -/
theorem reset_registersOk : registersOk State.reset = true := by decide

/-- The buffers of block reset are zeros of their lengths (R31). -/
theorem reset_tabs_sized : State.reset.tabs.sized = true := by decide

/-- The reference parameters meet the requirements on the parameters (R7, R111; log 1, log 2). -/
theorem reference_wf : Config.reference.wf = true := by decide

/-- Settles O58: memory and trace are empty, and the pins, registers, buffers and parameters are checked in turn. -/
theorem resetMeetsInvariants : Obligations.ResetMeetsInvariants :=
  ⟨reset_mem_wf, rfl, reset_pinsOk, reset_registersOk, reset_tabs_sized, reference_wf⟩

end Sys2Proof.Machine
end
